-- ==== Sys2Proof/Word.lean ====
section
/-! DEFINITION. The widths of the block's values (spec/00_scope.md R7, R10; spec/10_state.md). -/

namespace Sys2Proof

/-- A raw byte, or one byte of a message: 8 bits (R39, R41). -/
abbrev Byte := BitVec 8

/-- A magnitude sample or a table entry: 16 bits, `MAG_W` of R7. -/
abbrev Sample := BitVec 16

/-- A command word, a host-visible register, a consumer handle or status, an ICAO address:
32 bits (R10, R90). -/
abbrev Word := BitVec 32

/-- The per-context diagnostic sample counter: 64 bits, arithmetic mod 2^64 (R37). -/
abbrev DiagCount := BitVec 64

end Sys2Proof
end

