-- ==== Sys2Proof/Syntax.lean ====
section
/-! DEFINITION. The thirteen commands of the MLC command set, one constructor per row of
spec/opcode_table.json (spec/30_encoding.md R95). -/

namespace Sys2Proof

/-- A command with its operands. Every operand is an unsigned integer (R94); that it fits its field is
`Instr.wellFormed`. -/
inductive Instr where
  /-- LUTINIT DBG (R123). -/
  | lutinit (dbg : Nat)
  /-- LUTRD DI, DQ (R125). -/
  | lutrd (di dq : Nat)
  /-- CTXNEW c (R126). -/
  | ctxnew (c : Nat)
  /-- CTXFREE c (R127). -/
  | ctxfree (c : Nat)
  /-- CONV c, N (R142). -/
  | conv (c n : Nat)
  /-- SCAN c (R160). -/
  | scan (c : Nat)
  /-- PROC c, N (R161). -/
  | proc (c n : Nat)
  /-- PTEST c, OFF (R162). -/
  | ptest (c off : Nat)
  /-- DEMOD c, OFF (R184). -/
  | demod (c off : Nat)
  /-- ICWR IDX (R201). -/
  | icwr (idx : Nat)
  /-- ICLEN LEN (R202). -/
  | iclen (len : Nat)
  /-- ICSORT (R203). -/
  | icsort
  /-- ICFIND (R205). -/
  | icfind
deriving DecidableEq, Repr

end Sys2Proof
end

