-- ==== Sys2Proof/WellFormed.lean ====
section
/-! DEFINITION. When a command's operands fit their fields (spec/30_encoding.md R91, R93, and the operands an
assembler refuses, R100). -/

namespace Sys2Proof

/-- Each operand fits its field: DBG 1 bit, DI and DQ 8 bits, the context index 4 bits, N, OFF, IDX and LEN
24 bits (R93, R100). Every command the decoder answers is well formed; only such a command has a word. -/
def Instr.wellFormed : Instr → Bool
  | .lutinit dbg => decide (dbg ≤ 1)
  | .lutrd di dq => decide (di ≤ 255) && decide (dq ≤ 255)
  | .ctxnew c => decide (c ≤ 15)
  | .ctxfree c => decide (c ≤ 15)
  | .conv c n => decide (c ≤ 15) && decide (n < 2 ^ 24)
  | .scan c => decide (c ≤ 15)
  | .proc c n => decide (c ≤ 15) && decide (n < 2 ^ 24)
  | .ptest c off => decide (c ≤ 15) && decide (off < 2 ^ 24)
  | .demod c off => decide (c ≤ 15) && decide (off < 2 ^ 24)
  | .icwr idx => decide (idx < 2 ^ 24)
  | .iclen len => decide (len < 2 ^ 24)
  | .icsort => true
  | .icfind => true

end Sys2Proof
end

