-- ==== Sys2Proof/Decode.lean ====
section
/-! DEFINITION. The decoder of the 32-bit command word and the encoder, both from spec/30_encoding.md
(R90 to R100). -/

namespace Sys2Proof

/-- `v[hi:lo]`: bits hi down to lo of a word as an unsigned number (R11). -/
def bitField (w : Word) (hi lo : Nat) : Nat :=
  w.toNat / 2 ^ lo % 2 ^ (hi + 1 - lo)

/-- Why a word is no command. Both are the fault ILLEGAL_COMMAND (R96, R97). -/
inductive DecodeError where
  /-- OPC is 0x0, 0xE or 0xF (R96). -/
  | reservedOpcode
  /-- A defined OPC with a nonzero reserved bit (R97). -/
  | reservedField
deriving DecidableEq, Repr

/-- The command if its reserved bits are zero, else the rejection of R97. -/
def ifReservedZero (ok : Bool) (i : Instr) : Except DecodeError Instr :=
  if ok then .ok i else .error .reservedField

/-- The decoder of R99: total on 32-bit words, every word one command with its operands or a named
rejection. -/
def decode (w : Word) : Except DecodeError Instr :=
  let c := bitField w 27 24
  let imm := bitField w 23 0
  match bitField w 31 28 with
  | 0x1 => ifReservedZero (c == 0 && bitField w 23 1 == 0) (.lutinit (bitField w 0 0))
  | 0x2 => ifReservedZero (c == 0 && bitField w 23 16 == 0) (.lutrd (bitField w 15 8) (bitField w 7 0))
  | 0x3 => ifReservedZero (imm == 0) (.ctxnew c)
  | 0x4 => ifReservedZero (imm == 0) (.ctxfree c)
  | 0x5 => .ok (.conv c imm)
  | 0x6 => ifReservedZero (imm == 0) (.scan c)
  | 0x7 => .ok (.proc c imm)
  | 0x8 => .ok (.ptest c imm)
  | 0x9 => .ok (.demod c imm)
  | 0xA => ifReservedZero (c == 0) (.icwr imm)
  | 0xB => ifReservedZero (c == 0) (.iclen imm)
  | 0xC => ifReservedZero (c == 0 && imm == 0) .icsort
  | 0xD => ifReservedZero (c == 0 && imm == 0) .icfind
  | _ => .error .reservedOpcode

/-- The command word of a well-formed command (R100). The fields do not overlap, so the OR of R100 is a sum. -/
def encode : Instr → Word
  | .lutinit dbg => BitVec.ofNat 32 (0x10000000 + dbg)
  | .lutrd di dq => BitVec.ofNat 32 (0x20000000 + di * 2 ^ 8 + dq)
  | .ctxnew c => BitVec.ofNat 32 (0x30000000 + c * 2 ^ 24)
  | .ctxfree c => BitVec.ofNat 32 (0x40000000 + c * 2 ^ 24)
  | .conv c n => BitVec.ofNat 32 (0x50000000 + c * 2 ^ 24 + n)
  | .scan c => BitVec.ofNat 32 (0x60000000 + c * 2 ^ 24)
  | .proc c n => BitVec.ofNat 32 (0x70000000 + c * 2 ^ 24 + n)
  | .ptest c off => BitVec.ofNat 32 (0x80000000 + c * 2 ^ 24 + off)
  | .demod c off => BitVec.ofNat 32 (0x90000000 + c * 2 ^ 24 + off)
  | .icwr idx => BitVec.ofNat 32 (0xA0000000 + idx)
  | .iclen len => BitVec.ofNat 32 (0xB0000000 + len)
  | .icsort => BitVec.ofNat 32 0xC0000000
  | .icfind => BitVec.ofNat 32 0xD0000000

/-- What the opcode table's word of `nbits` bits says to the decoder: bits above `nbits` are 0, and the
command is one 32-bit word (R90), so a longer row is no command. -/
def tableWord (nbits w : Nat) : Word :=
  BitVec.ofNat 32 (w % 2 ^ nbits)

/-- The command the decoder reads from a word of the opcode table, none where it rejects the word. -/
def decodeTableWord (nbits w : Nat) : Option Instr :=
  if nbits ≤ 32 then (decode (tableWord nbits w)).toOption else none

end Sys2Proof
end

