-- ==== Sys2Proof/Config.lean ====
section
/-! DEFINITION. The constants of the spec (R7, R8), the values the model gives the open parameters in
`State.reset` (R9), and the free values: constants without a body, of which nothing can be computed or
proved (spec/93_implementation_defined.md, treatment `any value`). -/

namespace Sys2Proof.Config

/-- `LUT_DIM`: the table is 129 by 129 (R7). -/
abbrev lutDim : Nat := 129

/-- `PRE`, the source's `preambleSampleCount` (R8). -/
abbrev pre : Nat := 16

/-- `LONG_SAMPLES`: the samples of a 112-bit message (R7). -/
abbrev longSamples : Nat := 224

/-- `W`, the source's `longMessagePreambleWindow` (R8). -/
abbrev scanWindow : Nat := 240

/-- `CARRY_CAP`, the capacity of a context's carry-over buffer in samples (R8). -/
abbrev carryCap : Nat := 240

/-- `NUM_CONTEXTS` in `State.reset`. DESIGN CHOICE (log entry 1): R9 leaves it open; this is the example
value of spec/95_test_vectors.md. -/
abbrev numContexts : Nat := 2

/-- `MAX_RAW_BYTES` in `State.reset`. DESIGN CHOICE (log entry 1), as `numContexts`. -/
abbrev maxRawBytes : Nat := 1024

/-- `ICAO_CAP` in `State.reset`. DESIGN CHOICE (log entry 1), as `numContexts`. -/
abbrev icaoCap : Nat := 16

/-- Free value: the RAW byte at an index nothing has written since the reset named by the first argument
(R41, U4; log entry 3). -/
opaque rawDraw : Nat → Nat → Byte

/-- Free value: the LUT entry at an index that LUTINIT has not written since that reset (R32, U1; log entry 3). -/
opaque lutDraw : Nat → Nat → Sample

/-- Free value: the SEQ sample at an index outside the sequence last built (R38, U3; log entries 3 and 10). -/
opaque seqDraw : Nat → Nat → Sample

/-- Free value: the CARRY sample of a context (second argument) at an index the last copy-back did not
write (R36, U2; log entries 3 and 10). -/
opaque carryDraw : Nat → Nat → Nat → Sample

/-- Free value: the ICAO entry at an index nothing has written since that reset (R42, U5; log entry 3). -/
opaque icaoDraw : Nat → Nat → Word

/-- Free value: what a Read returns at an address outside its "valid when" condition, at a given tick
(R69, R70, U6, U7; log entry 6). -/
opaque readDraw : Nat → Word → Word

/-- Free value: MSG[k] after the overrun at a given tick (R236, U8; log entry 5). -/
opaque overrunMsg : Nat → Nat → Byte

/-- Free value: which of 0, 56, 112 MSG_LEN_BITS holds after the overrun at a given tick (R236, U8; R47
keeps it among the three; log entry 5). -/
opaque overrunMsgLen : Nat → Fin 3

/-- Free value: CARRY[k] of the abandoned command's context after an overrun (R236, U8; log entry 5). -/
opaque overrunCarry : Nat → Nat → Sample

/-- Free value: CARRY_LEN of that context after an overrun (R236, U8; R47 keeps it at most 240; log entry 5). -/
opaque overrunCarryLen : Nat → Fin 241

/-- Free value: DIAG_OFFSET of that context after an overrun (R236, U8; log entry 5). -/
opaque overrunDiag : Nat → DiagCount

/-- Free value: STATUS.SEQ_VALID after an overrun (R236, U8; log entry 5). -/
opaque overrunSeqValid : Nat → Bool

/-- Free value: RESULT after an overrun (R236, U8; log entry 5). -/
opaque overrunResult : Nat → Word

end Sys2Proof.Config
end

