-- ==== Sys2Proof/Machine/State.lean ====
section
/-! DEFINITION. The block's state (spec/10_state.md), the port operations that are its inputs
(spec/20_memory.md R64), and the state after reset (R48, R260). -/

namespace Sys2Proof.Machine

/-- A memory of w-bit elements: (index, element) pairs, indices strictly rising (`Mem.wf`). An index not
listed has not been written since reset: it has no value of its own and reads as a free value of
`Config` (R12, R60, R73; log entries 3 and 12). A `Mem 8` is a list of `Host.Cell`. -/
abbrev Mem (w : Nat) := List (Nat × BitVec w)

/-- The values of STATUS.FAULT (R30, R231). -/
inductive FaultCode where
  /-- 0x00 NONE: no fault has occurred since reset. -/
  | noFault
  /-- 0x01: reserved OPC or nonzero reserved field, any Issue. -/
  | illegalCommand
  /-- 0x02: the CTX field is at least NUM_CONTEXTS. -/
  | ctxIndex
  /-- 0x03: STATUS.LUT_VALID = 0. -/
  | lutNotInit
  /-- 0x04: CTX[c].VALID = 0. -/
  | ctxNotCreated
  /-- 0x05: CTX[c].VALID = 1 at CTXNEW. -/
  | ctxInUse
  /-- 0x06: N exceeds MAX_RAW_BYTES. -/
  | alloc
  /-- 0x07: STATUS.SEQ_VALID = 1 at CONV or PROC. -/
  | seqPending
  /-- 0x08: no sequence of this context is pending. -/
  | noSequence
  /-- 0x09: an index or length outside its space. -/
  | range
  /-- 0x0A: ICAO_LEN = 0. -/
  | emptyList
  /-- 0x0B: a host write while BUSY = 1. -/
  | overrun
deriving DecidableEq, Repr

/-- The phase of a running SCAN or PROC (R44). -/
inductive Phase where
  | scanning
  | waitConsumer
deriving DecidableEq, Repr

/-- The hidden state of a running SCAN or PROC (R44): it exists only while BUSY = 1. -/
structure Engine where
  /-- The running command's context. -/
  ctx : Nat
  /-- The scan index. -/
  i : Nat
  /-- The accepted-delivery count. -/
  acc : Word
  phase : Phase
deriving DecidableEq, Repr

/-- One streaming context slot, CTX[c] (R33 to R37). -/
structure Context where
  valid : Bool
  handle : Word
  carryLen : Nat
  carry : Mem 16
  diagOffset : DiagCount
deriving DecidableEq, Repr

/-- A slot after reset (R48). CARRY is unspecified: nothing is listed. -/
def Context.blank : Context :=
  { valid := false, handle := 0, carryLen := 0, carry := [], diagOffset := 0 }

/-- A pending delivery on the egress port (R45). -/
structure Delivery where
  bytes : List Byte
  lengthBytes : Nat
  handle : Word
  ctx : Nat
deriving DecidableEq, Repr

/-- The port operations: five of the host, one of the consumer (R64). -/
inductive PortOp where
  /-- WriteRaw(k, b), 0 ≤ k < 2^24 (R65). -/
  | writeRaw (k : BitVec 24) (b : Byte)
  /-- WriteArg(v) (R66). -/
  | writeArg (v : Word)
  /-- Issue(w) (R90, R232). -/
  | issue (w : Word)
  /-- Read(a) (R67). -/
  | read (a : Word)
  /-- Reset (R260). -/
  | reset
  /-- The consumer's Answer(status) (R158). -/
  | answer (status : Word)
deriving DecidableEq, Repr

/-- What stops the model. The block's own faults (R231) are no stops: taking one is a next state. -/
inductive Fault where
  /-- An Answer while no delivery is pending, which R64 does not allow and to which the spec gives no
  effect. Raised by the Answer port operation only, by no command. Safe: the model stops where the
  spec says nothing (log entry 9). -/
  | answerWithoutDelivery
deriving DecidableEq, Repr

/-- Why a command has no meaning here. -/
inductive Refusal where
  /-- The command of that name has no meaning in the model. Raised by `exec`'s rejected arms, of which
  there is none. Safe. -/
  | notModelled (mnemonic : String)
deriving DecidableEq, Repr

/-- The state of the block (spec/10_state.md), its configuration (R46), and the model's own last four
fields. STATUS is the view `State.statusWord`, BUSY the view `State.busy`, NUM_CONTEXTS the number of
context slots, the pending delivery the view `State.pendingDelivery`. -/
structure State where
  /-- ARG (R22). -/
  arg : Word
  /-- RESULT (R23). -/
  result : Word
  /-- STATUS.LUT_VALID (R26). -/
  lutValid : Bool
  /-- STATUS.SEQ_VALID (R27). -/
  seqValid : Bool
  /-- STATUS.DEBUG (R28). -/
  debug : Bool
  /-- STATUS.SEQ_CTX (R29). -/
  seqCtx : Nat
  /-- STATUS.FAULT (R30). -/
  fault : FaultCode
  /-- FAULT_INFO (R31). -/
  faultInfo : Word
  /-- LUT, entry (i, q) at index 129·i + q (R32, R122). -/
  lut : Mem 16
  /-- The context store, NUM_CONTEXTS slots (R33). -/
  ctxs : List Context
  /-- SEQ (R38). -/
  seq : Mem 16
  /-- SEQ_LEN (R38). -/
  seqLen : Nat
  /-- MSG[0] to MSG[13] (R39). -/
  msg : Vector Byte 14
  /-- MSG_LEN_BITS (R40). -/
  msgLenBits : Nat
  /-- RAW (R41). -/
  raw : Mem 8
  /-- ICAO (R42). -/
  icao : Mem 32
  /-- ICAO_LEN (R43). -/
  icaoLen : Nat
  /-- The running SCAN or PROC, none when the block is idle (R25, R44). -/
  engine : Option Engine
  /-- MAX_RAW_BYTES, configuration (R9, R46). -/
  maxRawBytes : Nat
  /-- ICAO_CAP, configuration (R9, R46). -/
  icaoCap : Nat
  /-- The model's own: the port operations still to be performed, oldest first (log entry 2). -/
  inputs : List PortOp
  /-- The model's own: the word the last Read returned (log entry 19). -/
  readOut : Option Word
  /-- The model's own: port operations other than Read performed so far; indexes free values (log entry 13). -/
  tick : Nat
  /-- The model's own: the tick of the last reset; indexes the memories' free contents (log entry 13). -/
  epoch : Nat
deriving DecidableEq, Repr

/-- The state after reset (R48, R260, R261) of a block with the given parameters. The unspecified
memories list nothing; MSG is all 0x00; the block is idle and waits for the host. -/
def State.resetWith (numContexts maxRawBytes icaoCap : Nat) : State :=
  { arg := 0, result := 0
    lutValid := false, seqValid := false, debug := false, seqCtx := 0
    fault := .noFault, faultInfo := 0
    lut := []
    ctxs := List.replicate numContexts Context.blank
    seq := [], seqLen := 0
    msg := #v[0, 0, 0, 0, 0, 0, 0, 0, 0, 0, 0, 0, 0, 0], msgLenBits := 0
    raw := [], icao := [], icaoLen := 0
    engine := none
    maxRawBytes := maxRawBytes, icaoCap := icaoCap
    inputs := [], readOut := none, tick := 0, epoch := 0 }

/-- The state after power-on, with the parameter values of log entry 1. -/
def State.reset : State :=
  State.resetWith Config.numContexts Config.maxRawBytes Config.icaoCap

end Sys2Proof.Machine
end

