-- ==== Sys2Proof/Machine/Ops.lean ====
section
/-! DEFINITION. The named operations over memories and contexts, fault entry (spec/60_exceptions.md R234) and
Reset, the only way out of the fault state (R238, R260). -/

namespace Sys2Proof.Machine

/-- The element an index holds, none where nothing has written it since reset (R12, U1 to U5). -/
def Mem.find {w : Nat} : Mem w → Nat → Option (BitVec w)
  | [], _ => none
  | (a, v) :: rest, k => if a = k then some v else Mem.find rest k

/-- `M[k] <- v` (R12). -/
def Mem.write {w : Nat} : Mem w → Nat → BitVec w → Mem w
  | [], k, v => [(k, v)]
  | (a, u) :: rest, k, v =>
    if k < a then (k, v) :: (a, u) :: rest
    else if k = a then (k, v) :: rest
    else (a, u) :: Mem.write rest k v

/-- The cells base, …, base + n − 1 holding `f base`, …, in rising order. -/
def Mem.cells {w : Nat} (f : Nat → BitVec w) : Nat → Nat → Mem w
  | _, 0 => []
  | base, n + 1 => (base, f base) :: Mem.cells f (base + 1) n

/-- A memory whose elements 0, …, n − 1 have just been written with `f`, every other element unspecified. -/
def Mem.ofFn {w : Nat} (n : Nat) (f : Nat → BitVec w) : Mem w :=
  Mem.cells f 0 n

/-- `M[k] <- f k` for every k < n, every other element kept. -/
def Mem.writeFirst {w : Nat} (m : Mem w) (n : Nat) (f : Nat → BitVec w) : Mem w :=
  Mem.cells f 0 n ++ m.filter (fun cell => decide (n ≤ cell.1))

/-- The canonical form: indices strictly rising. An unlisted index reads as no value, so no entry can equal
what an unlisted index reads as. -/
def Mem.wf {w : Nat} : Mem w → Bool
  | [] => true
  | [_] => true
  | (a, _) :: (b, v) :: rest => decide (a < b) && Mem.wf ((b, v) :: rest)

/-- Every listed index lies below the memory's capacity. -/
def Mem.within {w : Nat} (m : Mem w) (capacity : Nat) : Bool :=
  m.all (fun cell => decide (cell.1 < capacity))

/-- NUM_CONTEXTS: the number of context slots (R9, R33). -/
def State.numContexts (s : State) : Nat :=
  s.ctxs.length

/-- SEQ_CAP (R9). -/
def State.seqCap (s : State) : Nat :=
  Config.carryCap + s.maxRawBytes / 2

/-- CTX[c]. A slot exists when c < NUM_CONTEXTS (R33); no command reads another, since CTX_INDEX is checked
first. -/
def State.ctx (s : State) (c : Nat) : Context :=
  s.ctxs.getD c Context.blank

/-- CTX[c] ← x; no effect where there is no slot c. -/
def State.setCtx (s : State) (c : Nat) (x : Context) : State :=
  { s with ctxs := s.ctxs.set c x }

/-- The code of the first check that fails, in the order given (R233). -/
def firstFault : List (Bool × FaultCode) → Option FaultCode
  | [] => none
  | (fails, f) :: rest => if fails then some f else firstFault rest

/-- Fault entry (R234): FAULT and FAULT_INFO are written, BUSY is cleared, a pending delivery is withdrawn and
the running command abandoned, and all other state stays as it is. -/
def raiseFault (f : FaultCode) (info : Word) (s : State) : State :=
  { s with fault := f, faultInfo := info, engine := none }

/-- A command with word `w`: its checks in order, the first that fails raising its fault with info `w`, and
the body when none does (R232, R233). A fault is precise: nothing else is written (R234). -/
def checked (w : Word) (checks : List (Bool × FaultCode)) (body : State → State) (s : State) : State :=
  match firstFault checks with
  | some f => raiseFault f w s
  | none => body s

/-- What an overrun leaves of a SCAN or PROC of context c: MSG, MSG_LEN_BITS, CTX[c].CARRY, CARRY_LEN,
DIAG_OFFSET, SEQ_VALID and RESULT become unspecified (R236, U8), here free values of the overrun's tick.
DEDUCED (log entry 5): each stays in the range its own rule gives the field (R47). -/
def abandon (c : Nat) (s : State) : State :=
  let t := s.tick
  let b := Config.overrunMsg t
  { s with
    msg := #v[b 0, b 1, b 2, b 3, b 4, b 5, b 6, b 7, b 8, b 9, b 10, b 11, b 12, b 13]
    msgLenBits := 56 * (Config.overrunMsgLen t).val
    ctxs := s.ctxs.set c
      { s.ctx c with
        carry := Mem.ofFn Config.carryCap (Config.overrunCarry t)
        carryLen := (Config.overrunCarryLen t).val
        diagOffset := Config.overrunDiag t }
    seqValid := Config.overrunSeqValid t
    result := Config.overrunResult t }

/-- OVERRUN (R236): a host write while a command runs. The write is not performed. -/
def overrun (info : Word) (e : Engine) (s : State) : State :=
  raiseFault .overrun info (abandon e.ctx s)

/-- Reset (R260): every piece of state takes its reset value and the memories become unspecified; the
parameters stay (R46). The model's own fields `inputs`, `readOut` and `tick` belong to the environment and
stay; `epoch` makes the memories' contents fresh free values. -/
def resetBlock (s : State) : State :=
  { State.resetWith s.ctxs.length s.maxRawBytes s.icaoCap with
    inputs := s.inputs, readOut := s.readOut, tick := s.tick, epoch := s.tick }

end Sys2Proof.Machine
end

