-- ==== Sys2Proof/Machine/Operands.lean ====
section
/-! DEFINITION. The operand forms: the elements of the memories, the deviation fold and the table's values
(spec/40_table_context.md R120, spec/41_convert.md R140, R141), the scan window (spec/42_scan.md R150) and the bit
decision (spec/43_demod.md R180). -/

namespace Sys2Proof.Machine

/-- RAW[k]; a byte not written since reset is any byte (R41, U4). -/
def State.rawAt (s : State) (k : Nat) : Byte :=
  (s.raw.find k).getD (Config.rawDraw s.epoch k)

/-- LUT[k] (R32, U1). -/
def State.lutAt (s : State) (k : Nat) : Sample :=
  (s.lut.find k).getD (Config.lutDraw s.epoch k)

/-- SEQ[k] (R38, U3). -/
def State.seqAt (s : State) (k : Nat) : Sample :=
  (s.seq.find k).getD (Config.seqDraw s.epoch k)

/-- CTX[c].CARRY[k] (R36, U2). -/
def State.carryAt (s : State) (c k : Nat) : Sample :=
  ((s.ctx c).carry.find k).getD (Config.carryDraw s.epoch c k)

/-- ICAO[k]; an entry not written since reset is any value (R42, U5). -/
def State.icaoAt (s : State) (k : Nat) : Word :=
  (s.icao.find k).getD (Config.icaoDraw s.epoch k)

/-- The binary digits of the root, `bits` of them still to be decided, `root` what is decided so far. -/
def isqrtDigits (n : Nat) : Nat → Nat → Nat
  | 0, root => root
  | bits + 1, root =>
    if (root + 2 ^ bits) * (root + 2 ^ bits) ≤ n then isqrtDigits n bits (root + 2 ^ bits)
    else isqrtDigits n bits root

/-- `isqrt(n)`: the greatest s with s·s ≤ n (R11). -/
def isqrt (n : Nat) : Nat :=
  isqrtDigits n (Nat.log2 n / 2 + 1) 0

/-- The table's value at deviations (i, q): 360·√(i² + q²) rounded to the nearest integer, as the exact
integer function of R120. -/
def lutval (i q : Nat) : Nat :=
  (isqrt (518400 * (i * i + q * q)) + 1) / 2

/-- The index of entry (i, q) in LUT (R122). -/
def lutIndex (i q : Nat) : Nat :=
  Config.lutDim * i + q

/-- The deviation fold of a raw byte (R140). -/
def dev (v : Byte) : Nat :=
  if v.toNat > 127 then v.toNat - 127 else 127 - v.toNat

/-- The magnitude of pair p of the raw buffer (R141): I at the even index, Q at the odd one (R71). -/
def State.pairMagnitude (s : State) (p : Nat) : Sample :=
  s.lutAt (lutIndex (dev (s.rawAt (2 * p))) (dev (s.rawAt (2 * p + 1))))

/-- Sample k of the window at scan index i, SEQ[i + k] as an unsigned number (R150). -/
def State.window (s : State) (i k : Nat) : Nat :=
  (s.seqAt (i + k)).toNat

/-- Bit k of a message whose first sample is SEQ[p]: 1 exactly when the first half of its pair is strictly
greater than the second (R180). -/
def State.ppmBit (s : State) (p k : Nat) : Bool :=
  decide ((s.seqAt (p + 2 * k + 1)).toNat < (s.seqAt (p + 2 * k)).toNat)

end Sys2Proof.Machine
end

