-- ==== Sys2Proof/Machine/Flags.lean ====
section
/-! DEFINITION. The STATUS word and its fields (spec/10_state.md R24 to R30), the fault codes
(spec/60_exceptions.md R231), the pending delivery (R45), and the window verdict (spec/42_scan.md R151 to R153). -/

namespace Sys2Proof.Machine

/-- The code STATUS.FAULT holds (R231). -/
def FaultCode.code : FaultCode → Nat
  | .noFault => 0x00
  | .illegalCommand => 0x01
  | .ctxIndex => 0x02
  | .lutNotInit => 0x03
  | .ctxNotCreated => 0x04
  | .ctxInUse => 0x05
  | .alloc => 0x06
  | .seqPending => 0x07
  | .noSequence => 0x08
  | .range => 0x09
  | .emptyList => 0x0A
  | .overrun => 0x0B

/-- STATUS.BUSY (R25): a SCAN or PROC is running. DEDUCED from R44 (log entry 8): the engine state exists only
while BUSY = 1. -/
def State.busy (s : State) : Bool :=
  s.engine.isSome

/-- STATUS (R24): bit 0 BUSY, bit 1 LUT_VALID, bit 2 SEQ_VALID, bit 3 DEBUG, bits 7:4 SEQ_CTX, bits 15:8
FAULT, bits 31:16 zero. The fields do not overlap, so the word is a sum. -/
def State.statusWord (s : State) : Word :=
  BitVec.ofNat 32
    (s.busy.toNat + 2 * s.lutValid.toNat + 4 * s.seqValid.toNat + 8 * Bool.toNat s.debug
      + 16 * (s.seqCtx % 16) + 256 * s.fault.code)

/-- The running command when it waits for the consumer (R44). -/
def State.waiting (s : State) : Option Engine :=
  match s.engine with
  | some e => if e.phase = .waitConsumer then some e else none
  | none => none

/-- The delivery on the egress port (R45): the bytes MSG[0..MSG_LEN_BITS div 8), their number, the handle of
the running context, and that context. -/
def State.pendingDelivery (s : State) : Option Delivery :=
  match s.waiting with
  | some e => some
      { bytes := s.msg.toList.take (s.msgLenBits / 8)
        lengthBytes := s.msgLenBits / 8
        handle := (s.ctx e.ctx).handle
        ctx := e.ctx }
  | none => none

/-- `meanHigh` of a window: the exact sum of the four peaks, divided by 4 (R152). -/
def meanHigh (x : Nat → Nat) : Nat :=
  (x 0 + x 2 + x 7 + x 9) / 4

/-- The verdict of a window of 16 samples: the number of the first structural condition that rejects it, 8 when
the noise check rejects it, 0 when it is accepted (R151, R152). A zero `meanHigh` rejects (R153). -/
def verdict (x : Nat → Nat) : Nat :=
  if x 0 ≤ x 1 then 1
  else if x 1 ≥ x 2 then 2
  else if x 2 ≤ x 3 ∨ x 2 ≤ x 4 ∨ x 2 ≤ x 5 ∨ x 2 ≤ x 6 then 3
  else if x 6 ≥ x 7 then 4
  else if x 7 ≤ x 8 then 5
  else if x 8 ≥ x 9 then 6
  else if x 9 ≤ x 10 ∨ x 9 ≤ x 11 ∨ x 9 ≤ x 12 ∨ x 9 ≤ x 13 ∨ x 9 ≤ x 14 ∨ x 9 ≤ x 15 then 7
  else if meanHigh x = 0 then 8
  else if x 0 / meanHigh x > 2 ∨ x 2 / meanHigh x > 2 ∨ x 7 / meanHigh x > 2 ∨ x 9 / meanHigh x > 2 then 8
  else 0

end Sys2Proof.Machine
end

