-- ==== Sys2Proof/Machine/Contexts.lean ====
section
/-! DEFINITION. The streaming context commands CTXNEW and CTXFREE (spec/40_table_context.md R126 to R128). -/

namespace Sys2Proof.Machine

/-- What CTXNEW writes: VALID, HANDLE from ARG, CARRY_LEN and DIAG_OFFSET of slot c (R126). CARRY's elements are
not written; with CARRY_LEN = 0 all of them are unspecified (R36; log entry 10). -/
def ctxnewBody (c : Nat) (s : State) : State :=
  s.setCtx c { valid := true, handle := s.arg, carryLen := 0, carry := [], diagOffset := 0 }

/-- CTXNEW c (R126). -/
def execCtxnew (c : Nat) (s : State) : Host.Outcome State Fault Refusal :=
  .next (checked (encode (.ctxnew c))
    [(decide (c ≥ s.numContexts), .ctxIndex),
     ((s.ctx c).valid, .ctxInUse)]
    (ctxnewBody c) s)

/-- What CTXFREE writes: slot c's fields back to 0, and SEQ_VALID when c owns the pending sequence (R127). -/
def ctxfreeBody (c : Nat) (s : State) : State :=
  { s.setCtx c { valid := false, handle := 0, carryLen := 0, carry := [], diagOffset := 0 } with
    seqValid := s.seqValid && decide (s.seqCtx ≠ c) }

/-- CTXFREE c (R127). -/
def execCtxfree (c : Nat) (s : State) : Host.Outcome State Fault Refusal :=
  .next (checked (encode (.ctxfree c))
    [(decide (c ≥ s.numContexts), .ctxIndex),
     (!(s.ctx c).valid, .ctxNotCreated)]
    (ctxfreeBody c) s)

end Sys2Proof.Machine
end

