-- ==== Sys2Proof/Machine/Icao.lean ====
section
/-! DEFINITION. The ICAO address list: ICWR, ICLEN, ICSORT and ICFIND (spec/44_icao.md R200 to R207). -/

namespace Sys2Proof.Machine

/-- What ICWR writes: ICAO[IDX] ← ARG (R201). -/
def icwrBody (idx : Nat) (s : State) : State :=
  { s with icao := s.icao.write idx s.arg }

/-- ICWR IDX (R201). -/
def execIcwr (idx : Nat) (s : State) : Host.Outcome State Fault Refusal :=
  .next (checked (encode (.icwr idx)) [(decide (idx ≥ s.icaoCap), .range)] (icwrBody idx) s)

/-- What ICLEN writes: ICAO_LEN (R202). -/
def iclenBody (len : Nat) (s : State) : State :=
  { s with icaoLen := len }

/-- ICLEN LEN (R202). -/
def execIclen (len : Nat) (s : State) : Host.Outcome State Fault Refusal :=
  .next (checked (encode (.iclen len)) [(decide (len > s.icaoCap), .range)] (iclenBody len) s)

/-- ICAO[0..n) as a list; an entry nothing has written is its free value (U5). -/
def State.icaoList (s : State) (n : Nat) : List Word :=
  (List.range n).map s.icaoAt

/-- `swap ICAO[i-1], ICAO[i]` (R203): both entries are read, then both are written. -/
def swapEntries (i : Nat) (s : State) : State :=
  { s with icao := (s.icao.write (i - 1) (s.icaoAt i)).write i (s.icaoAt (i - 1)) }

/-- The walk of ICSORT at position i (R203): an inversion is swapped and the walk steps back when it can;
otherwise it steps forward; it ends at the list's end. Only a swap writes, so a walk over an ascending list changes
nothing (R271; log entry 11). The first argument bounds the steps. -/
def sortWalk : Nat → Nat → State → State
  | 0, _, s => s
  | steps + 1, i, s =>
    if i < s.icaoLen then
      if (s.icaoAt (i - 1)).toNat > (s.icaoAt i).toNat then
        sortWalk steps (if i > 1 then i - 1 else i) (swapEntries i s)
      else sortWalk steps (i + 1) s
    else s

/-- What ICSORT does: the whole walk, from i = 1 (R203). A list of n has at most n·(n − 1)/2 inversions, so the walk
ends within n − 1 + n·(n − 1) steps (R204), which n·n bounds. -/
def icsortBody (s : State) : State :=
  sortWalk (s.icaoLen * s.icaoLen) 1 s

/-- ICSORT (R203). -/
def execIcsort (s : State) : Host.Outcome State Fault Refusal :=
  .next (checked (encode .icsort) [(decide (s.icaoLen = 0), .emptyList)] icsortBody s)

/-- The search of ICFIND for `a` in the window (base, len) (R205). The first argument bounds the halvings: the
window's length falls at each, so `len` of them suffice. -/
def bisect (s : State) (a : Word) : Nat → Nat → Nat → Bool
  | 0, _, _ => false
  | steps + 1, base, len =>
    if s.icaoAt (base + len / 2) = a ∨ s.icaoAt base = a ∨ s.icaoAt (base + len - 1) = a then true
    else if len < 3 then false
    else if a.toNat > (s.icaoAt (base + len / 2)).toNat then bisect s a steps (base + len / 2) (len - len / 2)
    else bisect s a steps base (len / 2)

/-- What ICFIND writes: RESULT, 1 when the search finds ARG and 0 otherwise (R205). -/
def icfindBody (s : State) : State :=
  { s with result := if bisect s s.arg s.icaoLen 0 s.icaoLen then 1 else 0 }

/-- ICFIND (R205). -/
def execIcfind (s : State) : Host.Outcome State Fault Refusal :=
  .next (checked (encode .icfind) [(decide (s.icaoLen = 0), .emptyList)] icfindBody s)

end Sys2Proof.Machine
end

