-- ==== Sys2Proof/Machine/Convert.lean ====
section
/-! DEFINITION. The magnitude converter (spec/41_convert.md R142 to R145). -/

namespace Sys2Proof.Machine

/-- SEQ_LEN after a conversion of N raw bytes for context c: the carried samples and one for each whole pair
(R143, R145). -/
def convertedLen (c n : Nat) (s : State) : Nat :=
  (s.ctx c).carryLen + n / 2

/-- Sample k of the converted sequence: the carry-over first, then the pairs' magnitudes (R142). -/
def convertedSample (c : Nat) (s : State) (k : Nat) : Sample :=
  if k < (s.ctx c).carryLen then s.carryAt c k else s.pairMagnitude (k - (s.ctx c).carryLen)

/-- What a conversion writes: SEQ, SEQ_LEN, SEQ_VALID, SEQ_CTX and RESULT; the context is only read
(R142, R144). SEQ at or beyond SEQ_LEN is unspecified (U3; log entry 10). -/
def convertBody (c n : Nat) (s : State) : State :=
  { s with
    seq := Mem.ofFn (convertedLen c n s) (convertedSample c s)
    seqLen := convertedLen c n s
    seqValid := true
    seqCtx := c
    result := BitVec.ofNat 32 (convertedLen c n s) }

/-- The checks of CONV and PROC, in order (R142, R161, R233). -/
def convertChecks (c n : Nat) (s : State) : List (Bool × FaultCode) :=
  [(decide (c ≥ s.numContexts), .ctxIndex),
   (!s.lutValid, .lutNotInit),
   (!(s.ctx c).valid, .ctxNotCreated),
   (decide (n > s.maxRawBytes), .alloc),
   (s.seqValid, .seqPending)]

/-- CONV c, N (R142). -/
def execConv (c n : Nat) (s : State) : Host.Outcome State Fault Refusal :=
  .next (checked (encode (.conv c n)) (convertChecks c n s) (convertBody c n) s)

end Sys2Proof.Machine
end

