-- ==== Sys2Proof/Machine/Demod.lean ====
section
/-! DEFINITION. The PPM demodulator (spec/43_demod.md R180 to R186). -/

namespace Sys2Proof.Machine

/-- Eight bits packed most-significant-first: bit t of the list is bit 7 − t of the byte (R182). -/
def packByte (bit : Nat → Bool) : Byte :=
  BitVec.ofNat 8
    (128 * (bit 0).toNat + 64 * (bit 1).toNat + 32 * (bit 2).toNat + 16 * (bit 3).toNat
      + 8 * (bit 4).toNat + 4 * (bit 5).toNat + 2 * (bit 6).toNat + (bit 7).toNat)

/-- The length in bits of the message that starts at SEQ[p], decided by its first bit alone (R181). -/
def demodBits (s : State) (p : Nat) : Nat :=
  if s.ppmBit p 0 then 112 else 56

/-- Byte j of that message, 0 beyond the message's length (R182). -/
def demodByte (s : State) (p j : Nat) : Byte :=
  if 8 * j < demodBits s p then packByte (fun t => s.ppmBit p (8 * j + t)) else 0

/-- The 14 bytes of `demod(SEQ, p)` (R183). -/
def demodMsg (s : State) (p : Nat) : Vector Byte 14 :=
  let b := demodByte s p
  #v[b 0, b 1, b 2, b 3, b 4, b 5, b 6, b 7, b 8, b 9, b 10, b 11, b 12, b 13]

/-- The demodulation's writes: MSG and MSG_LEN_BITS (R157, R184). -/
def demodulate (p : Nat) (s : State) : State :=
  { s with msg := demodMsg s p, msgLenBits := demodBits s p }

/-- The checks SCAN, PTEST and DEMOD share: the context's index, the context, its pending sequence
(R160, R162, R184, R233). -/
def sequenceChecks (c : Nat) (s : State) : List (Bool × FaultCode) :=
  [(decide (c ≥ s.numContexts), .ctxIndex),
   (!(s.ctx c).valid, .ctxNotCreated),
   (!s.seqValid || decide (s.seqCtx ≠ c), .noSequence)]

/-- What DEMOD writes: MSG, MSG_LEN_BITS and RESULT (R184). -/
def demodBody (off : Nat) (s : State) : State :=
  { demodulate off s with result := BitVec.ofNat 32 (demodBits s off) }

/-- DEMOD c, OFF (R184). -/
def execDemod (c off : Nat) (s : State) : Host.Outcome State Fault Refusal :=
  .next (checked (encode (.demod c off))
    (sequenceChecks c s ++ [(decide (off + Config.longSamples > s.seqLen), .range)])
    (demodBody off) s)

end Sys2Proof.Machine
end

