-- ==== Sys2Proof/Machine/Scan.lean ====
section
/-! DEFINITION. The preamble scanner: the scan loop, the delivery handshake, the copy-back, and the commands SCAN,
PROC and PTEST (spec/42_scan.md R150 to R166). -/

namespace Sys2Proof.Machine

/-- Copy-back at scan index i (R159): the samples from i to the end of SEQ become the carry-over of context c,
DIAG_OFFSET rises by i mod 2^64, and the sequence is consumed. CARRY at or beyond the new CARRY_LEN is
unspecified (R36; log entry 10). -/
def copyback (c i : Nat) (s : State) : State :=
  { s with
    ctxs := s.ctxs.set c
      { s.ctx c with
        carry := Mem.ofFn (s.seqLen - i) (fun k => s.seqAt (i + k))
        carryLen := s.seqLen - i
        diagOffset := (s.ctx c).diagOffset + BitVec.ofNat 64 i }
    seqValid := false }

/-- The end of a scan (R160): copy-back, RESULT takes the accepted count, BUSY is cleared. -/
def endScan (e : Engine) (s : State) : State :=
  { copyback e.ctx e.i s with result := e.acc, engine := none }

/-- The acceptance step at the engine's index (R157): the message behind the preamble is demodulated into MSG
and its delivery becomes pending. -/
def acceptWindow (e : Engine) (s : State) : State :=
  { demodulate (e.i + Config.pre) s with engine := some { e with phase := .waitConsumer } }

/-- The scan loop from the engine's index, `n` windows before the bound of R155: a rejected window advances the
index by 1 and writes nothing (R156), an accepted one ends the step with a pending delivery (R157), and at the
bound the scan ends. -/
def scanLoop (s : State) : Nat → Engine → State
  | 0, e => endScan e s
  | n + 1, e =>
    if verdict (s.window e.i) = 0 then acceptWindow e s
    else scanLoop s n { e with i := e.i + 1 }

/-- The windows still to be tested: those with index below SEQ_LEN − W, none when SEQ_LEN ≤ W (R155). -/
def windowsLeft (s : State) (i : Nat) : Nat :=
  s.seqLen - Config.scanWindow - i

/-- A running scan's step: up to its next delivery or to its end (R274). -/
def scanRun (e : Engine) (s : State) : State :=
  scanLoop s (windowsLeft s e.i) e

/-- `scan_body(c)` from its beginning (R160): index 0, nothing accepted yet, BUSY = 1. -/
def scanBody (c : Nat) (s : State) : State :=
  scanRun { ctx := c, i := 0, acc := 0, phase := .scanning } s

/-- The engine after the consumer's answer (R158): status 0 counts the delivery and skips the preamble and the
message, any other status advances by one sample. -/
def answered (status : Word) (bits : Nat) (e : Engine) : Engine :=
  if status = 0 then { e with acc := e.acc + 1, i := e.i + Config.pre + 2 * bits, phase := .scanning }
  else { e with i := e.i + 1, phase := .scanning }

/-- Answer(status) resumes the pending scan (R158). -/
def answerScan (status : Word) (e : Engine) (s : State) : State :=
  scanRun (answered status s.msgLenBits e) s

/-- SCAN c (R160). -/
def execScan (c : Nat) (s : State) : Host.Outcome State Fault Refusal :=
  .next (checked (encode (.scan c)) (sequenceChecks c s) (scanBody c) s)

/-- What PROC does after its checks: the conversion, then the scan (R161). -/
def procBody (c n : Nat) (s : State) : State :=
  scanBody c (convertBody c n s)

/-- PROC c, N (R161). -/
def execProc (c n : Nat) (s : State) : Host.Outcome State Fault Refusal :=
  .next (checked (encode (.proc c n)) (convertChecks c n s) (procBody c n) s)

/-- What PTEST writes: RESULT, the verdict of the window at OFF (R162). -/
def ptestBody (off : Nat) (s : State) : State :=
  { s with result := BitVec.ofNat 32 (verdict (s.window off)) }

/-- PTEST c, OFF (R162). -/
def execPtest (c off : Nat) (s : State) : Host.Outcome State Fault Refusal :=
  .next (checked (encode (.ptest c off))
    (sequenceChecks c s ++ [(decide (off + 16 > s.seqLen), .range)])
    (ptestBody off) s)

end Sys2Proof.Machine
end

