-- ==== Sys2Proof/Machine/Table.lean ====
section
/-! DEFINITION. The magnitude table commands LUTINIT and LUTRD (spec/40_table_context.md R123 to R125). -/

namespace Sys2Proof.Machine

/-- The word LUTINIT writes at LUT index k, which is entry (k div 129, k mod 129) (R120, R122). -/
def tableEntry (k : Nat) : Sample :=
  BitVec.ofNat 16 (lutval (k / Config.lutDim) (k % Config.lutDim))

/-- What LUTINIT writes: all 16641 entries, LUT_VALID and DEBUG (R123). Issued again it writes the same table
(R124). -/
def lutinitBody (dbg : Nat) (s : State) : State :=
  { s with lut := Mem.ofFn (Config.lutDim * Config.lutDim) tableEntry, lutValid := true, debug := decide (dbg = 1) }

/-- LUTINIT DBG (R123): no error conditions. -/
def execLutinit (dbg : Nat) (s : State) : Host.Outcome State Fault Refusal :=
  .next (checked (encode (.lutinit dbg)) [] (lutinitBody dbg) s)

/-- What LUTRD writes: RESULT (R125). -/
def lutrdBody (di dq : Nat) (s : State) : State :=
  { s with result := (s.lutAt (lutIndex di dq)).zeroExtend 32 }

/-- LUTRD DI, DQ (R125). -/
def execLutrd (di dq : Nat) (s : State) : Host.Outcome State Fault Refusal :=
  .next (checked (encode (.lutrd di dq))
    [(!s.lutValid, .lutNotInit),
     (decide (di > 128 ∨ dq > 128), .range)]
    (lutrdBody di dq) s)

end Sys2Proof.Machine
end

