-- ==== Sys2Proof/Machine/Dispatch.lean ====
section
/-! DEFINITION. One arm per command: the meaning `exec` gives it. What the Issue operation decides before a command's
own checks (R232: the fault state, OVERRUN, ILLEGAL_COMMAND) stands in Machine/Port.lean. -/

namespace Sys2Proof.Machine

def exec (i : Instr) (s : State) : Host.Outcome State Fault Refusal :=
  match i with
  | .lutinit dbg => Sys2Proof.Machine.execLutinit dbg s
  | .lutrd di dq => Sys2Proof.Machine.execLutrd di dq s
  | .ctxnew c => Sys2Proof.Machine.execCtxnew c s
  | .ctxfree c => Sys2Proof.Machine.execCtxfree c s
  | .conv c n => Sys2Proof.Machine.execConv c n s
  | .scan c => Sys2Proof.Machine.execScan c s
  | .proc c n => Sys2Proof.Machine.execProc c n s
  | .ptest c off => Sys2Proof.Machine.execPtest c off s
  | .demod c off => Sys2Proof.Machine.execDemod c off s
  | .icwr idx => Sys2Proof.Machine.execIcwr idx s
  | .iclen len => Sys2Proof.Machine.execIclen len s
  | .icsort => Sys2Proof.Machine.execIcsort s
  | .icfind => Sys2Proof.Machine.execIcfind s

end Sys2Proof.Machine
end

