-- ==== Sys2Proof/Machine/ReadMap.lean ====
section
/-! DEFINITION. The host's read map (spec/20_memory.md R67 to R70). -/

namespace Sys2Proof.Machine

/-- The registers at 0x00000000 to 0x00000009 (R68). -/
def registerWord (s : State) : Nat → Option Word
  | 0 => some s.statusWord
  | 1 => some s.result
  | 2 => some s.arg
  | 3 => some s.faultInfo
  | 4 => some (BitVec.ofNat 32 s.seqLen)
  | 5 => some (BitVec.ofNat 32 s.msgLenBits)
  | 6 => some (BitVec.ofNat 32 s.icaoLen)
  | 7 => some (BitVec.ofNat 32 s.numContexts)
  | 8 => some (BitVec.ofNat 32 s.maxRawBytes)
  | 9 => some (BitVec.ofNat 32 s.icaoCap)
  | _ => none

/-- The words 0x00000100 + 8c + j of a context (R68). -/
def contextWord (x : Context) : Nat → Option Word
  | 0 => some (BitVec.ofNat 32 x.valid.toNat)
  | 1 => some x.handle
  | 2 => some (BitVec.ofNat 32 x.carryLen)
  | 3 => some (x.diagOffset.extractLsb' 0 32)
  | 4 => some (x.diagOffset.extractLsb' 32 32)
  | _ => none

/-- A word of the read map under its condition. -/
def wordWhen (valid : Bool) (v : Word) : Option Word :=
  if valid then some v else none

/-- The read map (R68): the word at an address, none where the table lists no address or its "valid when" does
not hold. The ranges of the table do not overlap, since NUM_CONTEXTS is at most 16. -/
def mapWord (s : State) (a : Nat) : Option Word :=
  if a < 0x10 then registerWord s a
  else if a < 0x100 then wordWhen (decide (a - 0x10 < 14)) ((s.msg.toList.getD (a - 0x10) 0).zeroExtend 32)
  else if a < 0x1000 then
    if (a - 0x100) / 8 < s.numContexts then contextWord (s.ctx ((a - 0x100) / 8)) ((a - 0x100) % 8) else none
  else if a < 0x20000 then
    let c := (a - 0x1000) / 0x100
    let k := (a - 0x1000) % 0x100
    wordWhen (decide (c < s.numContexts ∧ k < Config.carryCap ∧ k < (s.ctx c).carryLen))
      ((s.carryAt c k).zeroExtend 32)
  else if a < 0x01000000 then
    wordWhen (s.lutValid && decide (a - 0x20000 < Config.lutDim * Config.lutDim))
      ((s.lutAt (a - 0x20000)).zeroExtend 32)
  else if a < 0x02000000 then
    wordWhen (decide (a - 0x01000000 < s.seqLen)) ((s.seqAt (a - 0x01000000)).zeroExtend 32)
  else if a < 0x03000000 then
    if a - 0x02000000 < s.icaoCap then s.icao.find (a - 0x02000000) else none
  else none

/-- Which addresses are stable while a command runs (R70): STATUS, ARG, FAULT_INFO and the configuration words,
and, while a delivery is pending, MSG_LEN_BITS and MSG. -/
def stableWhileBusy (s : State) (a : Nat) : Bool :=
  decide (a = 0 ∨ a = 2 ∨ a = 3 ∨ a = 7 ∨ a = 8 ∨ a = 9)
    || (s.waiting.isSome && decide (a = 5 ∨ (0x10 ≤ a ∧ a ≤ 0x1D)))

/-- What Read(a) returns (R67): the map's word, else an unspecified word (R69, R70), the same for two reads with
no other port operation between them (R67). -/
def hostRead (s : State) (a : Word) : Word :=
  if s.busy && !stableWhileBusy s a.toNat then Config.readDraw s.tick a
  else (mapWord s a.toNat).getD (Config.readDraw s.tick a)

/-- Read(a) (R67, R77): no state of the block changes; the word goes out to the host. -/
def portRead (a : Word) (s : State) : State :=
  { s with readOut := some (hostRead s a) }

end Sys2Proof.Machine
end

