-- ==== Sys2Proof/Machine/Port.lean ====
section
/-! DEFINITION. The port operations of the host and the consumer (spec/20_memory.md R64 to R67, spec/60_exceptions.md
R232, R235, R236) and how the step takes the next one. -/

namespace Sys2Proof.Machine

/-- A host write (WriteRaw, WriteArg, Issue): ignored in the fault state (R235), OVERRUN with the given info while
a command runs (R236), and performed otherwise. -/
def hostWrite (overrunInfo : Word) (perform : State → Host.Outcome State Fault Refusal) (s : State) :
    Host.Outcome State Fault Refusal :=
  if s.fault ≠ .noFault then .next s
  else
    match s.engine with
    | some e => .next (overrun overrunInfo e s)
    | none => perform s

/-- WriteRaw(k, b) in the idle block (R65). -/
def writeRaw (k : BitVec 24) (b : Byte) (s : State) : Host.Outcome State Fault Refusal :=
  if k.toNat ≥ s.maxRawBytes then .next (raiseFault .range (k.zeroExtend 32) s)
  else .next { s with raw := s.raw.write k.toNat b }

/-- WriteArg(v) in the idle block (R66). -/
def writeArg (v : Word) (s : State) : Host.Outcome State Fault Refusal :=
  .next { s with arg := v }

/-- Issue(w) in the idle block (R232): an illegal word faults, a command runs. -/
def issueWord (w : Word) (s : State) : Host.Outcome State Fault Refusal :=
  match decode w with
  | .error _ => .next (raiseFault .illegalCommand w s)
  | .ok i => exec i s

/-- The consumer's Answer (R158). With no delivery pending it is not allowed and has no effect in the spec (R64):
the model stops (log entry 9). -/
def portAnswer (status : Word) (s : State) : Host.Outcome State Fault Refusal :=
  match s.waiting with
  | some e => .next (answerScan status e s)
  | none => .fault .answerWithoutDelivery

/-- One port operation on the block (R64). -/
def perform (op : PortOp) (s : State) : Host.Outcome State Fault Refusal :=
  match op with
  | .writeRaw k b => hostWrite 0 (writeRaw k b) s
  | .writeArg v => hostWrite 0 (writeArg v) s
  | .issue w => hostWrite w (issueWord w) s
  | .read a => .next (portRead a s)
  | .reset => .next (resetBlock s)
  | .answer status => portAnswer status s

/-- The model's bookkeeping when the step takes an operation: it leaves the inputs, and any operation but a Read
makes the free values that follow it fresh (log entry 13). -/
def takeInput (op : PortOp) (rest : List PortOp) (s : State) : State :=
  match op with
  | .read _ => { s with inputs := rest }
  | _ => { s with inputs := rest, tick := s.tick + 1 }

/-- The next port operation, if the environment has one; otherwise the block keeps all its state (R248, R261,
R249). -/
def nextOperation (s : State) : Host.Outcome State Fault Refusal :=
  match s.inputs with
  | [] => .next s
  | op :: rest => perform op (takeInput op rest s)

/-- One step: a scan in the phase SCANNING runs on by itself, up to its next delivery or its end; otherwise the
next port operation is performed (R80, R274). -/
def blockStep (s : State) : Host.Outcome State Fault Refusal :=
  match s.engine with
  | some e =>
    match e.phase with
    | .scanning => .next (scanRun e s)
    | .waitConsumer => nextOperation s
  | none => nextOperation s

end Sys2Proof.Machine
end

