-- ==== Sys2Proof/Machine/Step.lean ====
section
/-! DEFINITION. The step of the machine, and where it fetches its next command: the block has no program counter
and no instruction memory (R21, R85); a command arrives as the word of the host's next Issue. -/

namespace Sys2Proof.Machine

/-- One step of the block (R274). -/
def step (s : State) : Host.Outcome State Fault Refusal :=
  blockStep s

/-- `s` with the host about to issue the word (R64, R90): Issue of that word is the next port operation. The bits
above `nbits` are 0. -/
def State.withFetchWord (s : State) (nbits w : Nat) : State :=
  { s with inputs := .issue (tableWord nbits w) :: s.inputs }

end Sys2Proof.Machine
end

