-- ==== Sys2Proof/Safety.lean ====
section
/-! DEFINITION. The terms claims use: how a run can end (spec/70_reset_and_hazards.md R275), the invariant of the
machine (spec/10_state.md R47 and the rules it is derived from), and the conditions under which commands run. -/

namespace Sys2Proof.Machine

/-- A run that stops here ended normally: idle, not faulted, no delivery pending (R275). -/
def State.endedNormally (s : State) : Bool :=
  !s.busy && decide (s.fault = .noFault) && s.pendingDelivery.isNone

/-- A run that stops here ended in a fault (R275). -/
def State.endedFaulted (s : State) : Bool :=
  decide (s.fault ≠ .noFault)

/-- A run that stops here has not finished (R249, R275). -/
def State.notFinished (s : State) : Bool :=
  s.busy || s.pendingDelivery.isSome

/-- What holds of every context slot: CARRY_LEN is at most 240 (R35), CARRY keeps its canonical form within its
240 samples (R36), and a slot that is not created has its fields at 0 (R33 to R37, R127). -/
structure Context.Ok (x : Context) : Prop where
  carryLen_le : x.carryLen ≤ Config.carryCap
  carry_wf : x.carry.wf = true
  carry_within : x.carry.within Config.carryCap = true
  blank_if_invalid : x.valid = false → x.handle = 0 ∧ x.carryLen = 0 ∧ x.diagOffset = 0

/-- What holds of a running SCAN or PROC: its context is created and owns the pending sequence (R27, R160, R161),
its index lies in the sequence (R44), and while it waits, the window it accepted lies below the bound of R155
and MSG_LEN_BITS is the length of the pending message (R157, R181). -/
structure RunningOk (s : State) (e : Engine) : Prop where
  ctx_lt : e.ctx < s.numContexts
  ctx_valid : (s.ctx e.ctx).valid = true
  owns : s.seqValid = true ∧ s.seqCtx = e.ctx
  index_le : e.i ≤ s.seqLen
  waiting : e.phase = .waitConsumer →
    e.i + Config.scanWindow < s.seqLen ∧ (s.msgLenBits = 56 ∨ s.msgLenBits = 112)

/-- The invariant of the machine. -/
structure State.Inv (s : State) : Prop where
  /-- The parameters are legal (R9). -/
  contexts_legal : 1 ≤ s.numContexts ∧ s.numContexts ≤ 16
  raw_legal : 2 ≤ s.maxRawBytes ∧ s.maxRawBytes < 2 ^ 24
  icao_legal : 1 ≤ s.icaoCap ∧ s.icaoCap < 2 ^ 24
  /-- Every memory keeps its canonical form within its capacity (R60). -/
  lut_wf : s.lut.wf = true ∧ s.lut.within (Config.lutDim * Config.lutDim) = true
  seq_wf : s.seq.wf = true ∧ s.seq.within s.seqCap = true
  raw_wf : s.raw.wf = true ∧ s.raw.within s.maxRawBytes = true
  icao_wf : s.icao.wf = true ∧ s.icao.within s.icaoCap = true
  /-- Every context slot is in order (R33 to R37). -/
  contexts_ok : ∀ c, (s.ctx c).Ok
  /-- SEQ_LEN ≤ SEQ_CAP (R38). -/
  seqLen_le : s.seqLen ≤ s.seqCap
  /-- SEQ_CTX fits its 4 bits (R29). -/
  seqCtx_lt : s.seqCtx < 16
  /-- A pending sequence belongs to a created context (R47). -/
  seq_owned : s.seqValid = true → s.seqCtx < s.numContexts ∧ (s.ctx s.seqCtx).valid = true
  /-- ICAO_LEN ≤ ICAO_CAP (R43). -/
  icaoLen_le : s.icaoLen ≤ s.icaoCap
  /-- MSG_LEN_BITS ∈ 0, 56, 112 (R40). -/
  msgLen_legal : s.msgLenBits = 0 ∨ s.msgLenBits = 56 ∨ s.msgLenBits = 112
  /-- FAULT ≠ 0 implies BUSY = 0 (R47). -/
  fault_idle : s.fault ≠ .noFault → s.engine = none
  /-- FAULT_INFO is written by fault entry only (R31). -/
  info_zero : s.fault = .noFault → s.faultInfo = 0
  /-- An initialised table holds the values of R120. -/
  table_values : s.lutValid = true → ∀ i q, i ≤ 128 → q ≤ 128 →
    s.lut.find (lutIndex i q) = some (BitVec.ofNat 16 (lutval i q))
  /-- A running command is in order (R44). -/
  running_ok : ∀ e, s.engine = some e → RunningOk s e

/-- CONV c, N and PROC c, N pass their checks (R142, R161, R233). -/
structure ConvertReady (c n : Nat) (s : State) : Prop where
  index : c < s.numContexts
  table : s.lutValid = true
  created : (s.ctx c).valid = true
  fits : n ≤ s.maxRawBytes
  free : s.seqValid = false

/-- Context c is created and its converted sequence is pending: SCAN c passes its checks (R160, R233). -/
structure SequenceReady (c : Nat) (s : State) : Prop where
  index : c < s.numContexts
  created : (s.ctx c).valid = true
  pending : s.seqValid = true
  owner : s.seqCtx = c

/-- The match and mask of a command's row of the opcode map (R95). -/
def opcodeRow : Instr → Word × Word
  | .lutinit _ => (0x10000000, 0xFFFFFFFE)
  | .lutrd _ _ => (0x20000000, 0xFFFF0000)
  | .ctxnew _ => (0x30000000, 0xF0FFFFFF)
  | .ctxfree _ => (0x40000000, 0xF0FFFFFF)
  | .conv _ _ => (0x50000000, 0xF0000000)
  | .scan _ => (0x60000000, 0xF0FFFFFF)
  | .proc _ _ => (0x70000000, 0xF0000000)
  | .ptest _ _ => (0x80000000, 0xF0000000)
  | .demod _ _ => (0x90000000, 0xF0000000)
  | .icwr _ => (0xA0000000, 0xFF000000)
  | .iclen _ => (0xB0000000, 0xFF000000)
  | .icsort => (0xC0000000, 0xFFFFFFFF)
  | .icfind => (0xD0000000, 0xFFFFFFFF)

/-- The block is idle and not faulted, and the environment's next operation is `op` (R232, R235). -/
structure ReadyFor (op : PortOp) (rest : List PortOp) (s : State) : Prop where
  next : s.inputs = op :: rest
  idle : s.engine = none
  unfaulted : s.fault = .noFault

/-- A delivery of the running command `e` is pending and the environment's next operation is `op` (R45, R158). -/
structure WaitingFor (e : Engine) (op : PortOp) (rest : List PortOp) (s : State) : Prop where
  next : s.inputs = op :: rest
  running : s.engine = some e
  waits : e.phase = .waitConsumer

/-- A list of addresses in ascending order, duplicates allowed (R200). -/
def ascending (l : List Word) : Prop :=
  l.Pairwise (fun a b => a.toNat ≤ b.toNat)

/-- The structural test of R151 in its accepting form. -/
def structurallyAccepted (x : Nat → Nat) : Prop :=
  x 0 > x 1 ∧ x 1 < x 2 ∧ (∀ k, 3 ≤ k → k ≤ 6 → x 2 > x k) ∧ x 6 < x 7 ∧ x 7 > x 8 ∧ x 8 < x 9 ∧
    (∀ k, 10 ≤ k → k ≤ 15 → x 9 > x k)

/-- The window of spec/95_test_vectors.md's canonical preamble (peaks 3600, troughs 360) with its first sample
replaced (R154). -/
def preambleWithFirst (first : Nat) (k : Nat) : Nat :=
  if k = 0 then first else if k = 2 ∨ k = 7 ∨ k = 9 then 3600 else 360

/-- The 32 bits of a diagnostic counter from bit `lo` on, as a number (R68). -/
def bitsOf (x : DiagCount) (lo : Nat) : Nat :=
  x.toNat / 2 ^ lo % 2 ^ 32

/-- The commands that may write fields of context c (R128). -/
def mayWriteContext (i : Instr) (c : Nat) : Prop :=
  i = .ctxnew c ∨ i = .ctxfree c ∨ i = .scan c ∨ ∃ n, i = .proc c n

/-- The consumer of R166 answers every delivery of a scan, its answer a function of the delivery's stream position
(DIAG_OFFSET + index in SEQ) and bytes alone: the deliveries in order, and the state in which none is pending. The
second argument bounds their number. -/
def answerAll (consumer : DiagCount → List Byte → Word) : Nat → State → List (DiagCount × List Byte) × State
  | 0, s => ([], s)
  | bound + 1, s =>
    match s.waiting with
    | none => ([], s)
    | some e =>
      let position := (s.ctx e.ctx).diagOffset + BitVec.ofNat 64 e.i
      let bytes := s.msg.toList.take (s.msgLenBits / 8)
      let later := answerAll consumer bound (answerScan (consumer position bytes) e s)
      ((position, bytes) :: later.1, later.2)

/-- The host has written the bytes of a raw buffer to RAW[0..N) (R65, R264). -/
def loadRaw (buffer : List Byte) (s : State) : State :=
  { s with raw := s.raw.writeFirst buffer.length (fun k => buffer.getD k 0) }

/-- One raw buffer of context c's stream (R264, step 3): its bytes written, PROC issued, every delivery answered. A scan
makes at most SEQ_LEN deliveries (R165). None where PROC does not answer a next state. -/
def processBuffer (consumer : DiagCount → List Byte → Word) (c : Nat) (buffer : List Byte) (s : State) :
    Option (List (DiagCount × List Byte) × State) :=
  match exec (.proc c buffer.length) (loadRaw buffer s) with
  | .next t => some (answerAll consumer t.seqLen t)
  | .fault _ => none
  | .refused _ => none

/-- The raw buffers of context c's stream processed in order: all their deliveries, and the state after the last. -/
def processBuffers (consumer : DiagCount → List Byte → Word) (c : Nat) :
    List (List Byte) → State → Option (List (DiagCount × List Byte) × State)
  | [], s => some ([], s)
  | buffer :: rest, s =>
    match processBuffer consumer c buffer s with
    | none => none
    | some (first, t) =>
      match processBuffers consumer c rest t with
      | none => none
      | some (later, u) => some (first ++ later, u)

end Sys2Proof.Machine
end

