-- ==== Sys2Proof/Certificates/Slice0/Obligations.lean ====
section
/-! DEFINITION. The statements for the provers. Each docstring names the rule of spec/ the statement formalises. A
frame is written `t = { s with f := t.f, … }`: every field not named is unchanged. -/

open Sys2Proof Sys2Proof.Machine

/-! ### Encoding -/

/-- R99, R100: decoding a well-formed command's word gives the command back, every operand at every value. -/
def Obligations.DecodeOfEncodeIsTheCommand : Prop :=
  ∀ i : Instr, i.wellFormed = true → decode (encode i) = .ok i

/-- R97, R99: a word that decodes is the one word of the command it decodes to, which is well formed: no bit of
a word is dropped. -/
def Obligations.EncodeOfDecodeIsTheWord : Prop :=
  ∀ (w : Word) (i : Instr), decode w = .ok i → i.wellFormed = true ∧ encode i = w

/-- R95: a word selects the command of a row exactly when the word AND the row's mask is the row's match. -/
def Obligations.WordSelectsRowByMatchAndMask : Prop :=
  ∀ (w : Word) (j : Instr),
    w &&& (opcodeRow j).2 = (opcodeRow j).1 ↔ ∃ i, decode w = .ok i ∧ opcodeRow i = opcodeRow j

/-- R99, R100, spec/95_test_vectors.md: words of every family written out from the encoding. -/
def Obligations.SpecWordsDecode : Prop :=
  decode 0x10000001 = .ok (.lutinit 1) ∧ decode 0x20000304 = .ok (.lutrd 3 4) ∧
  decode 0x31000000 = .ok (.ctxnew 1) ∧ decode 0x41000000 = .ok (.ctxfree 1) ∧
  decode 0x5F123456 = .ok (.conv 15 0x123456) ∧ decode 0x61000000 = .ok (.scan 1) ∧
  decode 0x700001E2 = .ok (.proc 0 482) ∧ decode 0x8100000F = .ok (.ptest 1 15) ∧
  decode 0x90000010 = .ok (.demod 0 16) ∧ decode 0xA0000005 = .ok (.icwr 5) ∧
  decode 0xB0000007 = .ok (.iclen 7) ∧ decode 0xC0000000 = .ok .icsort ∧ decode 0xD0000000 = .ok .icfind

/-- R96: OPC 0x0, 0xE and 0xF select no command, and issuing such a word raises ILLEGAL_COMMAND with the word;
the all-zero word is one of them. -/
def Obligations.ReservedOpcodeIsIllegal : Prop :=
  (∀ (s : State) (w : Word) (rest : List PortOp), ReadyFor (.issue w) rest s →
    (bitField w 31 28 = 0x0 ∨ bitField w 31 28 = 0xE ∨ bitField w 31 28 = 0xF) →
    decode w = .error .reservedOpcode ∧
    step s = .next { s with
      inputs := rest, tick := s.tick + 1, fault := .illegalCommand, faultInfo := w, engine := none }) ∧
  bitField 0 31 28 = 0x0

/-- R97: a word with a defined OPC and a nonzero reserved bit (a bit under its row's mask that differs from the
row's match) raises ILLEGAL_COMMAND with the word; every word is exactly one of a command or illegal. -/
def Obligations.ReservedFieldIsIllegal : Prop :=
  (∀ (s : State) (w : Word) (rest : List PortOp) (j : Instr), ReadyFor (.issue w) rest s →
    bitField w 31 28 = bitField (opcodeRow j).1 31 28 → w &&& (opcodeRow j).2 ≠ (opcodeRow j).1 →
    decode w = .error .reservedField ∧
    step s = .next { s with
      inputs := rest, tick := s.tick + 1, fault := .illegalCommand, faultInfo := w, engine := none }) ∧
  (∀ w : Word, (∃ i, decode w = .ok i) ↔ ¬ (bitField w 31 28 = 0x0 ∨ bitField w 31 28 = 0xE ∨
    bitField w 31 28 = 0xF ∨
    ∃ j, bitField w 31 28 = bitField (opcodeRow j).1 31 28 ∧ w &&& (opcodeRow j).2 ≠ (opcodeRow j).1))

/-! ### The step, the ports and reset -/

/-- R232, R274: when the host issues a word that decodes to i and the block is idle and not faulted, the step is
exec of i. What the step adds around it is the model's bookkeeping (log entries 2, 13): the operation leaves
`inputs`, `tick` rises by one. -/
def Obligations.StepRunsTheDecodedCommand : Prop :=
  ∀ (s : State) (w : Word) (rest : List PortOp) (i : Instr), ReadyFor (.issue w) rest s → decode w = .ok i →
    step s = exec i { s with inputs := rest, tick := s.tick + 1 }

/-- R248, R249, R261: with no port operation to perform, an idle block keeps all its state, and so does one that
waits for the consumer. -/
def Obligations.BlockWithoutInputKeepsItsState : Prop :=
  ∀ s : State, s.inputs = [] → (s.engine = none ∨ s.waiting.isSome = true) → step s = .next s

/-- R235: while FAULT ≠ 0 every WriteRaw, WriteArg and Issue is ignored (only the model's `inputs` and `tick`
move), no delivery is pending, a Read still returns its word, and of all port operations only Reset leaves the fault
state. -/
def Obligations.FaultStateIsSticky : Prop :=
  ∀ (s : State) (op : PortOp) (rest : List PortOp), s.inputs = op :: rest → s.engine = none →
    s.fault ≠ .noFault →
    ((∀ k b, op = .writeRaw k b → step s = .next { s with inputs := rest, tick := s.tick + 1 }) ∧
     (∀ v, op = .writeArg v → step s = .next { s with inputs := rest, tick := s.tick + 1 }) ∧
     (∀ w, op = .issue w → step s = .next { s with inputs := rest, tick := s.tick + 1 }) ∧
     (∀ a, op = .read a → step s = .next { s with inputs := rest, readOut := some (hostRead s a) }) ∧
     s.pendingDelivery = none ∧
     (∀ t, step s = .next t → op ≠ .reset → t.fault = s.fault ∧ t.faultInfo = s.faultInfo) ∧
     (op = .reset → ∃ t, step s = .next t ∧ t.fault = .noFault))

/-- R65: WriteRaw in the idle, unfaulted block faults RANGE with the index when it is out of range, and otherwise
writes that byte of RAW and nothing else: every other byte of RAW reads as before. -/
def Obligations.WriteRawWritesOneByte : Prop :=
  ∀ (s : State) (k : BitVec 24) (b : Byte) (rest : List PortOp), ReadyFor (.writeRaw k b) rest s →
    (s.maxRawBytes ≤ k.toNat → step s = .next { s with
      inputs := rest, tick := s.tick + 1, fault := .range, faultInfo := k.zeroExtend 32, engine := none }) ∧
    (k.toNat < s.maxRawBytes → ∃ t, step s = .next t ∧
      t = { s with inputs := rest, tick := s.tick + 1, raw := t.raw } ∧
      t.rawAt k.toNat = b ∧ ∀ j, j ≠ k.toNat → t.rawAt j = s.rawAt j)

/-- R66: WriteArg is ignored in the fault state, is OVERRUN with info 0 while a command runs, and otherwise writes
ARG alone. -/
def Obligations.WriteArgWritesArg : Prop :=
  ∀ (s : State) (v : Word) (rest : List PortOp), s.inputs = .writeArg v :: rest →
    (s.engine = none ∨ s.waiting.isSome = true) →
    (s.fault ≠ .noFault → step s = .next { s with inputs := rest, tick := s.tick + 1 }) ∧
    (s.fault = .noFault → s.busy = true →
      ∃ t, step s = .next t ∧ t.fault = .overrun ∧ t.faultInfo = 0 ∧ t.arg = s.arg) ∧
    (s.fault = .noFault → s.busy = false →
      step s = .next { s with inputs := rest, tick := s.tick + 1, arg := v })

/-- R236: a host write while a delivery is pending raises OVERRUN with info w for Issue (whatever the word, R233) and
0 for WriteRaw and WriteArg. The command is abandoned, the write is not performed, and besides the fault's own
writes only the listed state may differ: MSG, MSG_LEN_BITS, SEQ_VALID, RESULT, and CARRY, CARRY_LEN, DIAG_OFFSET of
the running context, of which nothing more is said. -/
def Obligations.HostWriteWhileBusyIsOverrun : Prop :=
  ∀ (s : State) (e : Engine) (op : PortOp) (rest : List PortOp) (info : Word), WaitingFor e op rest s →
    s.fault = .noFault →
    ((∃ k b, op = .writeRaw k b ∧ info = 0) ∨ (∃ v, op = .writeArg v ∧ info = 0) ∨ op = .issue info) →
    ∃ t, step s = .next t ∧
      t = { s with
        inputs := rest, tick := s.tick + 1, fault := .overrun, faultInfo := info, engine := none,
        msg := t.msg, msgLenBits := t.msgLenBits, seqValid := t.seqValid, result := t.result,
        ctxs := s.ctxs.set e.ctx (t.ctx e.ctx) } ∧
      (t.ctx e.ctx).valid = (s.ctx e.ctx).valid ∧ (t.ctx e.ctx).handle = (s.ctx e.ctx).handle ∧
      t.pendingDelivery = none

/-- R260: Reset at any time (idle, while a delivery is pending, in the fault state) gives every register its reset
value and empties every context, abandons the command and its delivery, and keeps the parameters. The memories list
nothing: every element is unspecified. It is the state of power-on with the same parameters, but for the model's own
fields. -/
def Obligations.ResetLeavesTheResetState : Prop :=
  ∀ (s : State) (rest : List PortOp), s.inputs = .reset :: rest → (s.engine = none ∨ s.waiting.isSome = true) →
    ∃ t, step s = .next t ∧
      t.arg = 0 ∧ t.result = 0 ∧ t.statusWord = 0 ∧ t.faultInfo = 0 ∧ t.seqLen = 0 ∧ t.msgLenBits = 0 ∧
      t.icaoLen = 0 ∧ (∀ k, t.msg.toList.getD k 0 = 0) ∧
      (∀ c, (t.ctx c).valid = false ∧ (t.ctx c).handle = 0 ∧ (t.ctx c).carryLen = 0 ∧
        (t.ctx c).diagOffset = 0 ∧ (t.ctx c).carry = []) ∧
      t.lut = [] ∧ t.seq = [] ∧ t.raw = [] ∧ t.icao = [] ∧ t.engine = none ∧ t.pendingDelivery = none ∧
      t.numContexts = s.numContexts ∧ t.maxRawBytes = s.maxRawBytes ∧ t.icaoCap = s.icaoCap ∧
      t = { State.resetWith s.numContexts s.maxRawBytes s.icaoCap with
        inputs := rest, readOut := s.readOut, tick := s.tick + 1, epoch := s.tick + 1 }

/-- R67: Read(a) returns `hostRead s a`, the word O15 and O16 speak of, and changes no state of the block (only the
model's `inputs` and `readOut`), also while a delivery is pending or in the fault state; two reads of one address with no
other operation between them return the same word. -/
def Obligations.ReadsChangeNothingAndAgree : Prop :=
  ∀ (s : State) (a : Word) (rest : List PortOp), s.inputs = .read a :: .read a :: rest →
    (s.engine = none ∨ s.waiting.isSome = true) →
    ∃ t u, step s = .next t ∧ step t = .next u ∧
      t = { s with inputs := .read a :: rest, readOut := some (hostRead s a) } ∧
      u = { s with inputs := rest, readOut := some (hostRead s a) }

/-- R68: what Read returns at every address of the read map, in an idle block with at most 16 contexts. -/
def Obligations.ReadMapOfTheIdleBlock : Prop :=
  ∀ s : State, s.busy = false → s.numContexts ≤ 16 →
    (hostRead s 0x0 = s.statusWord ∧ hostRead s 0x1 = s.result ∧ hostRead s 0x2 = s.arg ∧
     hostRead s 0x3 = s.faultInfo ∧ hostRead s 0x4 = BitVec.ofNat 32 s.seqLen ∧
     hostRead s 0x5 = BitVec.ofNat 32 s.msgLenBits ∧ hostRead s 0x6 = BitVec.ofNat 32 s.icaoLen ∧
     hostRead s 0x7 = BitVec.ofNat 32 s.numContexts ∧ hostRead s 0x8 = BitVec.ofNat 32 s.maxRawBytes ∧
     hostRead s 0x9 = BitVec.ofNat 32 s.icaoCap) ∧
    (∀ k, k ≤ 13 → hostRead s (BitVec.ofNat 32 (0x10 + k)) = (s.msg.toList.getD k 0).zeroExtend 32) ∧
    (∀ c, c < s.numContexts →
      hostRead s (BitVec.ofNat 32 (0x100 + 8 * c)) = BitVec.ofNat 32 (s.ctx c).valid.toNat ∧
      hostRead s (BitVec.ofNat 32 (0x100 + 8 * c + 1)) = (s.ctx c).handle ∧
      hostRead s (BitVec.ofNat 32 (0x100 + 8 * c + 2)) = BitVec.ofNat 32 (s.ctx c).carryLen ∧
      (hostRead s (BitVec.ofNat 32 (0x100 + 8 * c + 3))).toNat = bitsOf (s.ctx c).diagOffset 0 ∧
      (hostRead s (BitVec.ofNat 32 (0x100 + 8 * c + 4))).toNat = bitsOf (s.ctx c).diagOffset 32) ∧
    (∀ c k, c < s.numContexts → k < 240 → k < (s.ctx c).carryLen →
      hostRead s (BitVec.ofNat 32 (0x1000 + 0x100 * c + k)) = (s.carryAt c k).zeroExtend 32) ∧
    (∀ i q, i ≤ 128 → q ≤ 128 → s.lutValid = true →
      hostRead s (BitVec.ofNat 32 (0x20000 + 129 * i + q)) = (s.lutAt (129 * i + q)).zeroExtend 32) ∧
    (∀ k, k < 2 ^ 24 → k < s.seqLen →
      hostRead s (BitVec.ofNat 32 (0x01000000 + k)) = (s.seqAt k).zeroExtend 32) ∧
    (∀ k v, k < 2 ^ 24 → k < s.icaoCap → s.icao.find k = some v →
      hostRead s (BitVec.ofNat 32 (0x02000000 + k)) = v)

/-- R70: while a delivery is pending, STATUS, ARG, FAULT_INFO and the configuration words read as they are, and
MSG[k] and MSG_LEN_BITS as the pending delivery's. -/
def Obligations.StableReadsWhileDeliveryPending : Prop :=
  ∀ s : State, s.waiting.isSome = true →
    hostRead s 0x0 = s.statusWord ∧ hostRead s 0x2 = s.arg ∧ hostRead s 0x3 = s.faultInfo ∧
    hostRead s 0x7 = BitVec.ofNat 32 s.numContexts ∧ hostRead s 0x8 = BitVec.ofNat 32 s.maxRawBytes ∧
    hostRead s 0x9 = BitVec.ofNat 32 s.icaoCap ∧ hostRead s 0x5 = BitVec.ofNat 32 s.msgLenBits ∧
    (∀ k, k ≤ 13 → hostRead s (BitVec.ofNat 32 (0x10 + k)) = (s.msg.toList.getD k 0).zeroExtend 32) ∧
    (∀ d, s.pendingDelivery = some d → ∀ k, k < d.bytes.length → d.bytes.getD k 0 = s.msg.toList.getD k 0)

/-- R24: the fields of STATUS. R231: the codes of its field FAULT. -/
def Obligations.StatusWordFields : Prop :=
  (FaultCode.noFault.code = 0x00 ∧ FaultCode.illegalCommand.code = 0x01 ∧ FaultCode.ctxIndex.code = 0x02 ∧
    FaultCode.lutNotInit.code = 0x03 ∧ FaultCode.ctxNotCreated.code = 0x04 ∧ FaultCode.ctxInUse.code = 0x05 ∧
    FaultCode.alloc.code = 0x06 ∧ FaultCode.seqPending.code = 0x07 ∧ FaultCode.noSequence.code = 0x08 ∧
    FaultCode.range.code = 0x09 ∧ FaultCode.emptyList.code = 0x0A ∧ FaultCode.overrun.code = 0x0B) ∧
  ∀ s : State, s.seqCtx < 16 →
    bitField s.statusWord 0 0 = s.busy.toNat ∧ bitField s.statusWord 1 1 = s.lutValid.toNat ∧
    bitField s.statusWord 2 2 = s.seqValid.toNat ∧ bitField s.statusWord 3 3 = Bool.toNat s.debug ∧
    bitField s.statusWord 7 4 = s.seqCtx ∧ bitField s.statusWord 15 8 = s.fault.code ∧
    bitField s.statusWord 31 16 = 0

/-- R64: an Answer while no delivery is pending. The MODEL's choice (log entry 9): it stops with the fault
answerWithoutDelivery, since R64 does not allow the operation and the spec gives it no effect. -/
def Obligations.AnswerWithoutDeliveryStops : Prop :=
  ∀ (s : State) (status : Word) (rest : List PortOp), s.inputs = .answer status :: rest → s.engine = none →
    step s = .fault .answerWithoutDelivery

/-! ### Faults -/

/-- R234, R237: a fault raised by a command's checks is precise. Whatever fault a command takes from the unfaulted
idle block, the next state differs from the old one in FAULT and FAULT_INFO alone, and FAULT_INFO is the word. -/
def Obligations.CommandFaultsArePrecise : Prop :=
  ∀ (i : Instr) (s t : State), s.fault = .noFault → s.engine = none → exec i s = .next t → t.fault ≠ .noFault →
    t = { s with fault := t.fault, faultInfo := encode i } ∧ t.pendingDelivery = none

/-- R233: the checks of CONV and PROC in their order: CTX_INDEX, LUT_NOT_INIT, CTX_NOT_CREATED, ALLOC, SEQ_PENDING. -/
def Obligations.CheckOrderOfConversions : Prop :=
  ∀ (c n : Nat) (s : State) (i : Instr), (i = .conv c n ∨ i = .proc c n) →
    (s.numContexts ≤ c → exec i s = .next (raiseFault .ctxIndex (encode i) s)) ∧
    (c < s.numContexts → s.lutValid = false → exec i s = .next (raiseFault .lutNotInit (encode i) s)) ∧
    (c < s.numContexts → s.lutValid = true → (s.ctx c).valid = false →
      exec i s = .next (raiseFault .ctxNotCreated (encode i) s)) ∧
    (c < s.numContexts → s.lutValid = true → (s.ctx c).valid = true → s.maxRawBytes < n →
      exec i s = .next (raiseFault .alloc (encode i) s)) ∧
    (c < s.numContexts → s.lutValid = true → (s.ctx c).valid = true → n ≤ s.maxRawBytes → s.seqValid = true →
      exec i s = .next (raiseFault .seqPending (encode i) s))

/-- R233: the checks of SCAN, PTEST and DEMOD in their order: CTX_INDEX, CTX_NOT_CREATED, NO_SEQUENCE, and RANGE for
PTEST and DEMOD. -/
def Obligations.CheckOrderOfSequenceCommands : Prop :=
  ∀ (c off : Nat) (s : State),
    (∀ i, (i = .scan c ∨ i = .ptest c off ∨ i = .demod c off) →
      (s.numContexts ≤ c → exec i s = .next (raiseFault .ctxIndex (encode i) s)) ∧
      (c < s.numContexts → (s.ctx c).valid = false →
        exec i s = .next (raiseFault .ctxNotCreated (encode i) s)) ∧
      (c < s.numContexts → (s.ctx c).valid = true → (s.seqValid = false ∨ s.seqCtx ≠ c) →
        exec i s = .next (raiseFault .noSequence (encode i) s))) ∧
    (SequenceReady c s → s.seqLen < off + 16 →
      exec (.ptest c off) s = .next (raiseFault .range (encode (.ptest c off)) s)) ∧
    (SequenceReady c s → s.seqLen < off + 224 →
      exec (.demod c off) s = .next (raiseFault .range (encode (.demod c off)) s))

/-- R233: the checks of the table, context and list commands in their order. -/
def Obligations.CheckOrderOfTheOtherCommands : Prop :=
  ∀ (di dq c idx len : Nat) (s : State),
    (s.lutValid = false → exec (.lutrd di dq) s = .next (raiseFault .lutNotInit (encode (.lutrd di dq)) s)) ∧
    (s.lutValid = true → (128 < di ∨ 128 < dq) →
      exec (.lutrd di dq) s = .next (raiseFault .range (encode (.lutrd di dq)) s)) ∧
    (s.numContexts ≤ c → exec (.ctxnew c) s = .next (raiseFault .ctxIndex (encode (.ctxnew c)) s)) ∧
    (c < s.numContexts → (s.ctx c).valid = true →
      exec (.ctxnew c) s = .next (raiseFault .ctxInUse (encode (.ctxnew c)) s)) ∧
    (s.numContexts ≤ c → exec (.ctxfree c) s = .next (raiseFault .ctxIndex (encode (.ctxfree c)) s)) ∧
    (c < s.numContexts → (s.ctx c).valid = false →
      exec (.ctxfree c) s = .next (raiseFault .ctxNotCreated (encode (.ctxfree c)) s)) ∧
    (s.icaoCap ≤ idx → exec (.icwr idx) s = .next (raiseFault .range (encode (.icwr idx)) s)) ∧
    (s.icaoCap < len → exec (.iclen len) s = .next (raiseFault .range (encode (.iclen len)) s)) ∧
    (s.icaoLen = 0 → exec .icsort s = .next (raiseFault .emptyList (encode .icsort) s) ∧
      exec .icfind s = .next (raiseFault .emptyList (encode .icfind) s))

/-! ### The magnitude table -/

/-- R120: the table's value is 360·√(i² + q²) rounded to the nearest integer, which is never halfway between two
integers, and it is the exact integer function of the rule. -/
def Obligations.LutvalIsTheRoundedRoot : Prop :=
  ∀ i q : Nat, i ≤ 128 → q ≤ 128 →
    (lutval i q : Int) = round (360 * Real.sqrt ((i : ℝ) ^ 2 + (q : ℝ) ^ 2)) ∧
    (∀ m : Int, 360 * Real.sqrt ((i : ℝ) ^ 2 + (q : ℝ) ^ 2) ≠ (m : ℝ) + 1 / 2) ∧
    lutval i q = (Nat.sqrt (518400 * (i ^ 2 + q ^ 2)) + 1) / 2

/-- R121: symmetry, the first row, monotonicity, the maximum and the selected values. -/
def Obligations.LutvalProperties : Prop :=
  (∀ i q, lutval i q = lutval q i) ∧ lutval 0 0 = 0 ∧ (∀ i, lutval i 0 = 360 * i) ∧
  (∀ i i' q q', i ≤ i' → q ≤ q' → lutval i q ≤ lutval i' q') ∧
  (∀ i q, i ≤ 128 → q ≤ 128 → lutval i q ≤ lutval 128 128 ∧ lutval i q < 2 ^ 16) ∧
  lutval 128 128 = 65167 ∧ lutval 1 1 = 509 ∧ lutval 2 1 = 805 ∧ lutval 3 4 = 1800 ∧ lutval 5 12 = 4680 ∧
  lutval 2 2 = 1018 ∧ lutval 64 64 = 32583 ∧ lutval 100 100 = 50912 ∧ lutval 127 127 = 64658 ∧
  lutval 128 127 = 64913

/-- R123: LUTINIT completes in every state; every entry of the table holds its value, LUT_VALID is 1, DEBUG is DBG,
nothing else changes. R124: issued again it changes no entry, only DEBUG takes the new DBG. -/
def Obligations.LutinitWritesTheTable : Prop :=
  ∀ (dbg : Nat) (s : State), dbg ≤ 1 → ∃ t, exec (.lutinit dbg) s = .next t ∧
    t = { s with lut := t.lut, lutValid := true, debug := decide (dbg = 1) } ∧
    (∀ i q, i ≤ 128 → q ≤ 128 → (t.lutAt (129 * i + q)).toNat = lutval i q) ∧
    ∀ again, again ≤ 1 → exec (.lutinit again) t = .next { t with debug := decide (again = 1) }

/-- R125: LUTRD reads one entry of an initialised table into RESULT, nothing else. -/
def Obligations.LutrdReadsOneEntry : Prop :=
  ∀ (di dq : Nat) (s : State), s.lutValid = true → di ≤ 128 → dq ≤ 128 →
    exec (.lutrd di dq) s = .next { s with result := (s.lutAt (129 * di + dq)).zeroExtend 32 }

/-! ### Contexts and conversion -/

/-- R126: CTXNEW c creates a free slot with ARG as its handle and an empty carry-over; no other slot and nothing else
changes. -/
def Obligations.CtxnewCreatesTheContext : Prop :=
  ∀ (c : Nat) (s : State), c < s.numContexts → (s.ctx c).valid = false → ∃ t, exec (.ctxnew c) s = .next t ∧
    t = { s with ctxs := s.ctxs.set c (t.ctx c) } ∧
    (t.ctx c).valid = true ∧ (t.ctx c).handle = s.arg ∧ (t.ctx c).carryLen = 0 ∧ (t.ctx c).diagOffset = 0 ∧
    ∀ d, d ≠ c → t.ctx d = s.ctx d

/-- R127: CTXFREE c releases a created slot and discards the pending sequence exactly when c owns it. -/
def Obligations.CtxfreeReleasesTheContext : Prop :=
  ∀ (c : Nat) (s : State), c < s.numContexts → (s.ctx c).valid = true → ∃ t, exec (.ctxfree c) s = .next t ∧
    t = { s with ctxs := s.ctxs.set c (t.ctx c), seqValid := t.seqValid } ∧
    (t.ctx c).valid = false ∧ (t.ctx c).handle = 0 ∧ (t.ctx c).carryLen = 0 ∧ (t.ctx c).diagOffset = 0 ∧
    (s.seqCtx = c → t.seqValid = false) ∧ (s.seqCtx ≠ c → t.seqValid = s.seqValid) ∧
    ∀ d, d ≠ c → t.ctx d = s.ctx d

/-- R128: context c's fields are written by no command but CTXNEW c, CTXFREE c, SCAN c and PROC c. -/
def Obligations.ContextsAreOwned : Prop :=
  ∀ (i : Instr) (s t : State) (c : Nat), exec i s = .next t → ¬ mayWriteContext i c → t.ctx c = s.ctx c

/-- R140: the deviation fold and its stated values. -/
def Obligations.DeviationFold : Prop :=
  (∀ v : Byte, dev v = (if 127 < v.toNat then v.toNat - 127 else 127 - v.toNat) ∧ dev v ≤ 128 ∧
    (dev v = 128 ↔ v = 255)) ∧
  dev 127 = 0 ∧ dev 128 = 1 ∧ dev 126 = 1 ∧ dev 0 = 127 ∧ dev 255 = 128

/-- R141: in an initialised block the magnitude of pair p is the table's entry, and the table's value, at the two bytes'
deviations, and it does not depend on which byte of the pair is I. -/
def Obligations.PairMagnitudeIsTheTableValue : Prop :=
  ∀ (s : State) (p : Nat), s.Inv → s.lutValid = true →
    s.pairMagnitude p = s.lutAt (129 * dev (s.rawAt (2 * p)) + dev (s.rawAt (2 * p + 1))) ∧
    (s.pairMagnitude p).toNat = lutval (dev (s.rawAt (2 * p))) (dev (s.rawAt (2 * p + 1))) ∧
    (s.pairMagnitude p).toNat = lutval (dev (s.rawAt (2 * p + 1))) (dev (s.rawAt (2 * p)))

/-- R142 (with R143, R144, R145): CONV completes when its checks pass. SEQ is the carry-over followed by one magnitude
for each whole pair of the buffer; SEQ_LEN and RESULT count them; the context is not written. -/
def Obligations.ConvBuildsTheSequence : Prop :=
  ∀ (c n : Nat) (s : State), ConvertReady c n s → ∃ t, exec (.conv c n) s = .next t ∧
    t = { s with seq := t.seq, seqLen := (s.ctx c).carryLen + n / 2, seqValid := true, seqCtx := c,
                 result := BitVec.ofNat 32 ((s.ctx c).carryLen + n / 2) } ∧
    (∀ k, k < (s.ctx c).carryLen → t.seqAt k = s.carryAt c k) ∧
    (∀ p, p < n / 2 → t.seqAt ((s.ctx c).carryLen + p) =
      s.lutAt (129 * dev (s.rawAt (2 * p)) + dev (s.rawAt (2 * p + 1))))

/-! ### The window verdict -/

/-- R151, R152, R153: a window is accepted exactly when it passes the structural test and no peak divided by meanHigh
exceeds 2; one that passes the structural test alone has verdict 8; after the structural test meanHigh is at least 1. -/
def Obligations.VerdictAcceptsExactly : Prop :=
  ∀ x : Nat → Nat,
    (verdict x = 0 ↔ structurallyAccepted x ∧
      ∀ p, (p = 0 ∨ p = 2 ∨ p = 7 ∨ p = 9) → x p / ((x 0 + x 2 + x 7 + x 9) / 4) ≤ 2) ∧
    (structurallyAccepted x →
      (∃ p, (p = 0 ∨ p = 2 ∨ p = 7 ∨ p = 9) ∧ 2 < x p / ((x 0 + x 2 + x 7 + x 9) / 4)) → verdict x = 8) ∧
    (structurallyAccepted x → 1 ≤ (x 0 + x 2 + x 7 + x 9) / 4)

/-- R151: the verdict is the number of the first failing condition, in the rule's order, and 8 when only the noise
check of R152 rejects. -/
def Obligations.VerdictIsTheFirstFailingCondition : Prop :=
  ∀ x : Nat → Nat,
    (verdict x = 1 ↔ x 0 ≤ x 1) ∧
    (verdict x = 2 ↔ x 1 < x 0 ∧ x 2 ≤ x 1) ∧
    (verdict x = 3 ↔ x 1 < x 0 ∧ x 1 < x 2 ∧ ∃ k, 3 ≤ k ∧ k ≤ 6 ∧ x 2 ≤ x k) ∧
    (verdict x = 4 ↔ x 1 < x 0 ∧ x 1 < x 2 ∧ (∀ k, 3 ≤ k → k ≤ 6 → x k < x 2) ∧ x 7 ≤ x 6) ∧
    (verdict x = 5 ↔ x 1 < x 0 ∧ x 1 < x 2 ∧ (∀ k, 3 ≤ k → k ≤ 6 → x k < x 2) ∧ x 6 < x 7 ∧ x 7 ≤ x 8) ∧
    (verdict x = 6 ↔ x 1 < x 0 ∧ x 1 < x 2 ∧ (∀ k, 3 ≤ k → k ≤ 6 → x k < x 2) ∧ x 6 < x 7 ∧ x 8 < x 7 ∧
      x 9 ≤ x 8) ∧
    (verdict x = 7 ↔ x 1 < x 0 ∧ x 1 < x 2 ∧ (∀ k, 3 ≤ k → k ≤ 6 → x k < x 2) ∧ x 6 < x 7 ∧ x 8 < x 7 ∧
      x 8 < x 9 ∧ ∃ k, 10 ≤ k ∧ k ≤ 15 ∧ x 9 ≤ x k) ∧
    (verdict x = 8 ↔ structurallyAccepted x ∧
      ∃ p, (p = 0 ∨ p = 2 ∨ p = 7 ∨ p = 9) ∧ 2 < x p / ((x 0 + x 2 + x 7 + x 9) / 4)) ∧
    verdict x ≤ 8

/-- R154: a quotient exceeds 2 exactly from three times the mean on, and the verdict of the canonical preamble by its
first sample. -/
def Obligations.NoiseCheckThresholds : Prop :=
  (∀ a m : Nat, 1 ≤ m → (a / m > 2 ↔ 3 * m ≤ a)) ∧
  meanHigh (preambleWithFirst 32391) = 10797 ∧ meanHigh (preambleWithFirst 32392) = 10798 ∧
  meanHigh (preambleWithFirst 32393) = 10798 ∧ meanHigh (preambleWithFirst 32396) = 10799 ∧
  (∀ a, a ≤ 360 → verdict (preambleWithFirst a) = 1) ∧
  (∀ a, 361 ≤ a → a ≤ 32390 → verdict (preambleWithFirst a) = 0) ∧
  verdict (preambleWithFirst 32391) = 8 ∧ verdict (preambleWithFirst 32392) = 0 ∧
  verdict (preambleWithFirst 32393) = 0 ∧ verdict (preambleWithFirst 32394) = 8 ∧
  verdict (preambleWithFirst 32395) = 8 ∧ verdict (preambleWithFirst 32396) = 0 ∧
  (∀ a, 32397 ≤ a → a ≤ 65535 → verdict (preambleWithFirst a) = 8)

/-- R162: PTEST writes the verdict of the window at OFF to RESULT and nothing else; the sequence stays pending. -/
def Obligations.PtestReportsTheVerdict : Prop :=
  ∀ (c off : Nat) (s : State), SequenceReady c s → off + 16 ≤ s.seqLen → ∃ t, exec (.ptest c off) s = .next t ∧
    t = { s with result := t.result } ∧ t.result.toNat = verdict (fun k => (s.seqAt (off + k)).toNat)

/-! ### Demodulation -/

/-- R180 to R184: DEMOD completes when its checks pass. The first pair alone decides the length; bit k of the message
is bit 7 − (k mod 8) of byte k div 8 and is 1 exactly when the first half of its pair is greater; bytes beyond the
message are 0; RESULT is the length; the sequence stays pending. -/
def Obligations.DemodDecodesTheMessage : Prop :=
  ∀ (c off : Nat) (s : State), SequenceReady c s → off + 224 ≤ s.seqLen → ∃ t, exec (.demod c off) s = .next t ∧
    t = { s with msg := t.msg, msgLenBits := t.msgLenBits, result := BitVec.ofNat 32 t.msgLenBits } ∧
    t.msgLenBits = (if (s.seqAt (off + 1)).toNat < (s.seqAt off).toNat then 112 else 56) ∧
    (∀ k, k < t.msgLenBits → (t.msg.toList.getD (k / 8) 0).getLsbD (7 - k % 8) =
      decide ((s.seqAt (off + 2 * k + 1)).toNat < (s.seqAt (off + 2 * k)).toNat)) ∧
    (∀ j, t.msgLenBits / 8 ≤ j → j < 14 → t.msg.toList.getD j 0 = 0)

/-- R185: a demodulation at p depends on no sample outside p .. p + 2·bits − 1. -/
def Obligations.DemodReadsOnlyItsSamples : Prop :=
  ∀ (s t : State) (p : Nat), (∀ k, p ≤ k → k < p + 2 * demodBits s p → t.seqAt k = s.seqAt k) →
    demodBits t p = demodBits s p ∧ demodMsg t p = demodMsg s p

/-! ### Scanning -/

/-- R150, R155 to R157, R160: SCAN stops at the first accepted window below the bound: its message is in MSG, its
delivery is pending, BUSY is 1, and nothing else has changed. -/
def Obligations.ScanDeliversTheFirstAcceptedWindow : Prop :=
  ∀ (c j : Nat) (s : State), SequenceReady c s → j + 240 < s.seqLen → verdict (s.window j) = 0 →
    (∀ k, k < j → verdict (s.window k) ≠ 0) → ∃ t, exec (.scan c) s = .next t ∧
    t = { s with msg := demodMsg s (j + 16), msgLenBits := demodBits s (j + 16),
                 engine := some { ctx := c, i := j, acc := 0, phase := .waitConsumer } } ∧
    t.busy = true ∧
    t.pendingDelivery = some
      { bytes := (demodMsg s (j + 16)).toList.take (demodBits s (j + 16) / 8)
        lengthBytes := demodBits s (j + 16) / 8
        handle := (s.ctx c).handle
        ctx := c }

/-- R155, R156, R159, R160: SCAN of a sequence with no accepted window below the bound ends in one step at index
i = SEQ_LEN − 240 (0 when SEQ_LEN ≤ 240): the samples from i on are the carry-over, DIAG_OFFSET rises by i, the
sequence is consumed, RESULT is 0. -/
def Obligations.ScanWithoutMatchCarriesTheRest : Prop :=
  ∀ (c : Nat) (s : State), SequenceReady c s → s.engine = none →
    (∀ k, k + 240 < s.seqLen → verdict (s.window k) ≠ 0) → ∃ t, exec (.scan c) s = .next t ∧
    t = { s with ctxs := s.ctxs.set c (t.ctx c), seqValid := false, result := 0 } ∧
    (t.ctx c).valid = true ∧ (t.ctx c).handle = (s.ctx c).handle ∧
    (t.ctx c).carryLen = s.seqLen - (s.seqLen - 240) ∧
    (∀ k, k < (t.ctx c).carryLen → t.carryAt c k = s.seqAt (s.seqLen - 240 + k)) ∧
    (t.ctx c).diagOffset = (s.ctx c).diagOffset + BitVec.ofNat 64 (s.seqLen - 240)

/-- R157, R158: the consumer's answer when a further accepted window follows. Status 0 counts the delivery and moves on by
16 + 2·MSG_LEN_BITS, any other status moves on by 1; the next accepted window below the bound is delivered. -/
def Obligations.AnswerReachesTheNextDelivery : Prop :=
  ∀ (s : State) (e : Engine) (status : Word) (rest : List PortOp) (i j : Nat),
    WaitingFor e (.answer status) rest s →
    i = (if status = 0 then e.i + 16 + 2 * s.msgLenBits else e.i + 1) →
    i ≤ j → j + 240 < s.seqLen → verdict (s.window j) = 0 →
    (∀ k, i ≤ k → k < j → verdict (s.window k) ≠ 0) → ∃ t, step s = .next t ∧
    t = { s with inputs := rest, tick := s.tick + 1,
                 msg := demodMsg s (j + 16), msgLenBits := demodBits s (j + 16),
                 engine := some { ctx := e.ctx, i := j,
                                  acc := if status = 0 then e.acc + 1 else e.acc, phase := .waitConsumer } } ∧
    t.pendingDelivery = some
      { bytes := (demodMsg s (j + 16)).toList.take (demodBits s (j + 16) / 8)
        lengthBytes := demodBits s (j + 16) / 8
        handle := (s.ctx e.ctx).handle
        ctx := e.ctx }

/-- R158, R159: the consumer's answer when no accepted window follows. The scan ends: copy-back from the index it
reached, RESULT the accepted count, BUSY 0. -/
def Obligations.AnswerEndsTheScan : Prop :=
  ∀ (s : State) (e : Engine) (status : Word) (rest : List PortOp) (i stop : Nat),
    WaitingFor e (.answer status) rest s → e.ctx < s.numContexts →
    i = (if status = 0 then e.i + 16 + 2 * s.msgLenBits else e.i + 1) →
    (∀ k, i ≤ k → k + 240 < s.seqLen → verdict (s.window k) ≠ 0) →
    stop = max i (s.seqLen - 240) → ∃ t, step s = .next t ∧
    t = { s with inputs := rest, tick := s.tick + 1, engine := none,
                 ctxs := s.ctxs.set e.ctx (t.ctx e.ctx), seqValid := false,
                 result := if status = 0 then e.acc + 1 else e.acc } ∧
    (t.ctx e.ctx).valid = (s.ctx e.ctx).valid ∧ (t.ctx e.ctx).handle = (s.ctx e.ctx).handle ∧
    (t.ctx e.ctx).carryLen = s.seqLen - stop ∧
    (∀ k, k < s.seqLen - stop → t.carryAt e.ctx k = s.seqAt (stop + k)) ∧
    (t.ctx e.ctx).diagOffset = (s.ctx e.ctx).diagOffset + BitVec.ofNat 64 stop

/-- R161, R268: PROC c, N has exactly the effect of CONV c, N followed at once by SCAN c; all three complete. -/
def Obligations.ProcIsConvThenScan : Prop :=
  ∀ (c n : Nat) (s : State), ConvertReady c n s → ∃ t u, exec (.conv c n) s = .next t ∧
    exec (.scan c) t = .next u ∧ exec (.proc c n) s = .next u

/-- R161: PROC of a buffer shorter than two bytes tests nothing and carries the same samples back. -/
def Obligations.ProcOfAShortBufferKeepsTheCarry : Prop :=
  ∀ (c n : Nat) (s : State), ConvertReady c n s → s.engine = none → n < 2 → (s.ctx c).carryLen ≤ 240 →
    ∃ t, exec (.proc c n) s = .next t ∧
    t = { s with ctxs := s.ctxs.set c (t.ctx c), seq := t.seq, seqLen := (s.ctx c).carryLen, seqCtx := c,
                 result := 0 } ∧
    (t.ctx c).valid = true ∧ (t.ctx c).handle = (s.ctx c).handle ∧
    (t.ctx c).carryLen = (s.ctx c).carryLen ∧ (t.ctx c).diagOffset = (s.ctx c).diagOffset ∧
    ∀ k, k < (s.ctx c).carryLen → t.carryAt c k = s.carryAt c k

/-- R164: a scan never reads SEQ at or above SEQ_LEN: with any other contents there, SCAN and the consumer's Answer
give the same state but for those contents. -/
def Obligations.ScanReadsInsideTheSequence : Prop :=
  ∀ (c : Nat) (s t : State) (m : Mem 16),
    (∀ k, k < s.seqLen → ({ s with seq := m } : State).seqAt k = s.seqAt k) →
    (exec (.scan c) s = .next t → exec (.scan c) { s with seq := m } = .next { t with seq := m }) ∧
    (∀ (e : Engine) (status : Word) (rest : List PortOp), WaitingFor e (.answer status) rest s →
      step s = .next t → step { s with seq := m } = .next { t with seq := m })

/-- R165: a scan ends when every delivery is answered: from a pending delivery at index i, at most SEQ_LEN − 240 − i
answers are needed, whatever they are. -/
def Obligations.ScanEndsWhenEveryDeliveryIsAnswered : Prop :=
  ∀ (s : State) (e : Engine) (answers : List Word) (rest : List PortOp),
    s.engine = some e → e.phase = .waitConsumer → e.i + 240 < s.seqLen →
    s.inputs = answers.map PortOp.answer ++ rest → s.seqLen - 240 - e.i ≤ answers.length →
    ∃ (k : Nat) (t : State), k ≤ s.seqLen - 240 - e.i ∧ Host.Core.run Sys2Proof.core k s = .next t ∧ t.engine = none

/-- R166: the carry-over round trip. Raw buffers B1, …, Bm of context c, each but perhaps the last of even length, processed
by PROC in order, and their concatenation processed by one PROC, make the same deliveries at the same stream positions
with the same bytes and end with the same CARRY, CARRY_LEN and DIAG_OFFSET, for every consumer whose answer depends only
on a delivery's stream position and bytes. It holds from any CARRY_LEN, 0 among them. All commands complete, no fault is
raised, and no delivery is left pending. -/
def Obligations.CarryOverRoundTrip : Prop :=
  ∀ (consumer : DiagCount → List Byte → Word) (c : Nat) (buffers : List (List Byte)) (s : State),
    buffers ≠ [] → (∀ b ∈ buffers.dropLast, b.length % 2 = 0) → ConvertReady c buffers.flatten.length s →
    ∃ (deliveries : List (DiagCount × List Byte)) (t u : State),
      processBuffers consumer c buffers s = some (deliveries, t) ∧
      processBuffer consumer c buffers.flatten s = some (deliveries, u) ∧
      t.engine = none ∧ u.engine = none ∧ t.fault = s.fault ∧ u.fault = s.fault ∧ t.ctx c = u.ctx c

/-! ### The ICAO list -/

/-- R201: ICWR writes ARG to one entry of the list memory; every other entry, ICAO_LEN and RESULT are unchanged. -/
def Obligations.IcwrWritesOneEntry : Prop :=
  ∀ (idx : Nat) (s : State), idx < s.icaoCap → ∃ t, exec (.icwr idx) s = .next t ∧
    t = { s with icao := t.icao } ∧ t.icaoAt idx = s.arg ∧ t.icao.find idx = some s.arg ∧
    ∀ k, k ≠ idx → t.icaoAt k = s.icaoAt k ∧ t.icao.find k = s.icao.find k

/-- R202: ICLEN sets ICAO_LEN, nothing else. -/
def Obligations.IclenSetsTheLength : Prop :=
  ∀ (len : Nat) (s : State), len ≤ s.icaoCap → exec (.iclen len) s = .next { s with icaoLen := len }

/-- R203, R204: ICSORT of a nonempty list leaves ICAO[0..ICAO_LEN) the ascending permutation of its former contents and
touches no entry beyond, nor anything else. R271: of a list that is already ascending it changes nothing at all. -/
def Obligations.IcsortSortsTheList : Prop :=
  ∀ s : State, s.icaoLen ≠ 0 → ∃ t, exec .icsort s = .next t ∧
    t = { s with icao := t.icao } ∧
    (t.icaoList s.icaoLen).Perm (s.icaoList s.icaoLen) ∧ ascending (t.icaoList s.icaoLen) ∧
    (∀ k, s.icaoLen ≤ k → t.icaoAt k = s.icaoAt k ∧ t.icao.find k = s.icao.find k) ∧
    (ascending (s.icaoList s.icaoLen) → t = s)

/-- R205, R207: ICFIND of a nonempty list, in whatever order, completes and writes RESULT alone, 0 or 1. Of a list that is
not ascending nothing more is said, as R207 asks. -/
def Obligations.IcfindWritesZeroOrOne : Prop :=
  ∀ s : State, s.icaoLen ≠ 0 → ∃ t, exec .icfind s = .next t ∧ t = { s with result := t.result } ∧
    (t.result = 0 ∨ t.result = 1)

/-- R206: on an ascending list ICFIND returns 1 exactly when ARG occurs in the list. -/
def Obligations.IcfindIsMembershipOnAscendingLists : Prop :=
  ∀ s : State, s.icaoLen ≠ 0 → ascending (s.icaoList s.icaoLen) → ∃ t, exec .icfind s = .next t ∧
    t = { s with result := t.result } ∧
    (s.arg ∈ s.icaoList s.icaoLen → t.result = 1) ∧ (s.arg ∉ s.icaoList s.icaoLen → t.result = 0)

/-- R206: sort then search is consistent: after ICSORT, ICFIND returns 1 exactly for the addresses of the input list. -/
def Obligations.SortThenSearchIsConsistent : Prop :=
  ∀ s : State, s.icaoLen ≠ 0 → ∃ t u, exec .icsort s = .next t ∧ exec .icfind t = .next u ∧
    (s.arg ∈ s.icaoList s.icaoLen → u.result = 1) ∧ (s.arg ∉ s.icaoList s.icaoLen → u.result = 0)

/-! ### The whole machine -/

/-- R61 (who writes which space), R22, R23, R87: no command writes ARG or RAW, only LUTINIT writes LUT, only CONV and PROC
write SEQ, only SCAN, PROC and DEMOD write MSG, only ICWR and ICSORT write ICAO, only ICLEN writes ICAO_LEN, and LUTINIT,
CTXNEW, CTXFREE and the list's loading and sorting leave RESULT unchanged. -/
def Obligations.EachSpaceHasItsWriters : Prop :=
  ∀ (i : Instr) (s t : State), exec i s = .next t →
    t.arg = s.arg ∧ t.raw = s.raw ∧
    ((∀ dbg, i ≠ .lutinit dbg) → t.lut = s.lut ∧ t.lutValid = s.lutValid ∧ t.debug = s.debug) ∧
    ((∀ c n, i ≠ .conv c n) → (∀ c n, i ≠ .proc c n) → t.seq = s.seq ∧ t.seqLen = s.seqLen ∧ t.seqCtx = s.seqCtx) ∧
    ((∀ c, i ≠ .scan c) → (∀ c n, i ≠ .proc c n) → (∀ c off, i ≠ .demod c off) →
      t.msg = s.msg ∧ t.msgLenBits = s.msgLenBits) ∧
    ((∀ idx, i ≠ .icwr idx) → i ≠ .icsort → t.icao = s.icao) ∧
    ((∀ len, i ≠ .iclen len) → t.icaoLen = s.icaoLen) ∧
    ((∃ dbg, i = .lutinit dbg) ∨ (∃ c, i = .ctxnew c) ∨ (∃ c, i = .ctxfree c) ∨ (∃ idx, i = .icwr idx) ∨
      (∃ len, i = .iclen len) ∨ i = .icsort → t.result = s.result)

/-- R25: from an idle block, BUSY is 1 after a step only when the host issued a SCAN or a PROC, and then a delivery is
pending. -/
def Obligations.OnlyScanAndProcAreSeenBusy : Prop :=
  ∀ s t : State, s.engine = none → step s = .next t → t.busy = true →
    t.pendingDelivery.isSome = true ∧
    ∃ w rest i, s.inputs = .issue w :: rest ∧ decode w = .ok i ∧ ((∃ c, i = .scan c) ∨ ∃ c n, i = .proc c n)

/-- R46, R260: no step changes NUM_CONTEXTS, MAX_RAW_BYTES or ICAO_CAP. -/
def Obligations.ParametersNeverChange : Prop :=
  ∀ s t : State, step s = .next t →
    t.numContexts = s.numContexts ∧ t.maxRawBytes = s.maxRawBytes ∧ t.icaoCap = s.icaoCap

/-- No step takes a CARRY_LEN above 240. R163 says it of every copy-back, and R126, R127 and R260 set CARRY_LEN to 0. For a
host write that raises OVERRUN it is the MODEL's choice (log entry 5): R236 makes the running context's CARRY_LEN any
value there, and the model draws it within the field's range of R35. -/
def Obligations.CarryLenStaysWithinCapacity : Prop :=
  ∀ s t : State, (∀ c, (s.ctx c).carryLen ≤ 240) → step s = .next t → ∀ c, (t.ctx c).carryLen ≤ 240

/-- R48, R261: the invariant holds after reset, whatever the legal parameters. -/
def Obligations.ResetSatisfiesTheInvariant : Prop :=
  ∀ n r k : Nat, 1 ≤ n → n ≤ 16 → 2 ≤ r → r < 2 ^ 24 → 1 ≤ k → k < 2 ^ 24 → (State.resetWith n r k).Inv

/-- R47 and the rules it rests on: every step keeps the invariant: the memories' canonical form and capacities, the
table's values, the contexts, the owner of the pending sequence, the lengths, and the order of a running command. That an
overrun keeps it rests on the model's reading of R236 (log entry 5). -/
def Obligations.EveryStepKeepsTheInvariant : Prop :=
  ∀ s t : State, s.Inv → step s = .next t → t.Inv

/-- R275: a state that satisfies the invariant is exactly one of: ended normally, ended in a fault, not finished. -/
def Obligations.RunsEndInExactlyOneWay : Prop :=
  ∀ s : State, s.Inv →
    (s.endedNormally = true ∧ s.endedFaulted = false ∧ s.notFinished = false) ∨
    (s.endedNormally = false ∧ s.endedFaulted = true ∧ s.notFinished = false) ∨
    (s.endedNormally = false ∧ s.endedFaulted = false ∧ s.notFinished = true)
end

