-- ==== Sys2Proof/Laws/Functions.lean ====
section
/-! SUPPORT. The arithmetic functions: the integer square root, the deviation fold, the bit fields of a word. -/

namespace Sys2Proof.Machine

theorem isqrtDigits_spec (n bits root : Nat) (h1 : root * root ≤ n)
    (h2 : n < (root + 2 ^ bits) * (root + 2 ^ bits)) :
    isqrtDigits n bits root * isqrtDigits n bits root ≤ n ∧
    n < (isqrtDigits n bits root + 1) * (isqrtDigits n bits root + 1) := by
  induction bits generalizing root with
  | zero => exact ⟨h1, by simpa [isqrtDigits] using h2⟩
  | succ b ih =>
    unfold isqrtDigits
    split
    · rename_i h
      refine ih _ h ?_
      have : root + 2 ^ b + 2 ^ b = root + 2 ^ (b + 1) := by rw [Nat.pow_succ]; omega
      rwa [this]
    · rename_i h
      exact ih _ h1 (Nat.lt_of_not_le h)

/-- `isqrt n` is the greatest s with s·s ≤ n (R11). -/
theorem isqrt_spec (n : Nat) : isqrt n * isqrt n ≤ n ∧ n < (isqrt n + 1) * (isqrt n + 1) := by
  refine isqrtDigits_spec n _ 0 (by omega) ?_
  have h1 : n < 2 ^ (Nat.log2 n + 1) := Nat.lt_log2_self
  have h2 : 2 ^ (Nat.log2 n + 1) ≤ 2 ^ (Nat.log2 n / 2 + 1) * 2 ^ (Nat.log2 n / 2 + 1) := by
    rw [← Nat.pow_add]
    exact Nat.pow_le_pow_right (by omega) (by omega)
  rw [Nat.zero_add]
  omega

/-- A root is determined by its two bounds. -/
theorem isqrt_eq {n r : Nat} (h1 : r * r ≤ n) (h2 : n < (r + 1) * (r + 1)) : isqrt n = r := by
  obtain ⟨a, b⟩ := isqrt_spec n
  have h3 : isqrt n < r + 1 := by
    by_contra h
    have := Nat.mul_self_le_mul_self (Nat.le_of_not_lt h)
    omega
  have h4 : r < isqrt n + 1 := by
    by_contra h
    have := Nat.mul_self_le_mul_self (Nat.le_of_not_lt h)
    omega
  omega

theorem isqrt_mono {m n : Nat} (h : m ≤ n) : isqrt m ≤ isqrt n := by
  obtain ⟨a, _⟩ := isqrt_spec m
  obtain ⟨_, d⟩ := isqrt_spec n
  by_contra hc
  have := Nat.mul_self_le_mul_self (show isqrt n + 1 ≤ isqrt m by omega)
  omega

/-- The bounds that make `lutval` the nearest integer to 360·√(i² + q²): its double lies within one of twice that
root. -/
theorem lutval_spec (i q : Nat) :
    2 * lutval i q ≤ isqrt (518400 * (i * i + q * q)) + 1 ∧
    isqrt (518400 * (i * i + q * q)) < 2 * lutval i q + 1 := by
  unfold lutval
  omega

theorem dev_le (v : Byte) : dev v ≤ 128 := by
  have := v.isLt
  unfold dev
  split <;> omega

end Sys2Proof.Machine

namespace Sys2Proof

/-- A bit field of a word given as a number. -/
@[simp] theorem bitField_ofNat (n hi lo : Nat) :
    bitField (BitVec.ofNat 32 n) hi lo = n % 2 ^ 32 / 2 ^ lo % 2 ^ (hi + 1 - lo) := by
  simp [bitField]

@[simp] theorem ifReservedZero_true (i : Instr) : ifReservedZero true i = .ok i := rfl

@[simp] theorem ifReservedZero_false (i : Instr) : ifReservedZero false i = .error .reservedField := rfl

theorem ifReservedZero_ok {b : Bool} {i j : Instr} (h : ifReservedZero b i = .ok j) : b = true ∧ i = j := by
  cases b
  · simp at h
  · simpa using h

end Sys2Proof
end

