-- ==== Sys2Proof/Laws/Memory.lean ====
section
/-! SUPPORT. The memories: a read after a write, a write leaves every other index alone, and every operation keeps
the canonical form and the capacity. -/

namespace Sys2Proof.Machine

variable {w : Nat}

@[simp] theorem find_nil (k : Nat) : Mem.find ([] : Mem w) k = none := rfl

theorem find_cons (a : Nat) (v : BitVec w) (m : Mem w) (k : Nat) :
    Mem.find ((a, v) :: m) k = if a = k then some v else Mem.find m k := rfl

/-- Reading after `M[k] <- v` gives `v` at k and what was there before elsewhere. -/
theorem find_write (m : Mem w) (k j : Nat) (v : BitVec w) :
    Mem.find (Mem.write m k v) j = if j = k then some v else Mem.find m j := by
  induction m with
  | nil => simp [Mem.write, Mem.find, eq_comm]
  | cons cell rest ih =>
    obtain ⟨a, u⟩ := cell
    unfold Mem.write
    split
    · simp [find_cons, eq_comm]
    · split
      · subst_vars; simp only [find_cons]; grind
      · simp only [find_cons, ih]; grind

/-- Fresh cells hold `f` on their range and nothing else. -/
theorem find_cells (f : Nat → BitVec w) (base n j : Nat) :
    Mem.find (Mem.cells f base n) j = if base ≤ j ∧ j < base + n then some (f j) else none := by
  induction n generalizing base with
  | zero => simp [Mem.cells]
  | succ n ih => simp only [Mem.cells, find_cons, ih]; grind

/-- A memory just written whole holds `f` below n and nothing else. -/
@[simp] theorem find_ofFn (n : Nat) (f : Nat → BitVec w) (j : Nat) :
    Mem.find (Mem.ofFn n f) j = if j < n then some (f j) else none := by
  simp [Mem.ofFn, find_cells]

theorem find_append (m m' : Mem w) (j : Nat) :
    Mem.find (m ++ m') j = (Mem.find m j).or (Mem.find m' j) := by
  induction m with
  | nil => simp
  | cons cell rest ih =>
    obtain ⟨a, v⟩ := cell
    simp only [List.cons_append, find_cons, ih]
    split <;> simp

theorem find_filter_ge (m : Mem w) (n j : Nat) :
    Mem.find (m.filter (fun cell => decide (n ≤ cell.1))) j = if n ≤ j then Mem.find m j else none := by
  induction m with
  | nil => simp
  | cons cell rest ih =>
    obtain ⟨a, v⟩ := cell
    simp only [List.filter_cons]
    split <;> simp_all only [find_cons, decide_eq_true_eq] <;> grind

/-- Writing the first n elements gives them `f` and leaves every other index alone. -/
@[simp] theorem find_writeFirst (m : Mem w) (n : Nat) (f : Nat → BitVec w) (j : Nat) :
    Mem.find (Mem.writeFirst m n f) j = if j < n then some (f j) else Mem.find m j := by
  simp only [Mem.writeFirst, find_append, find_cells, find_filter_ge]
  by_cases h : j < n <;> simp [h]

/-- The canonical form as one fact: the indices are pairwise rising. -/
theorem wf_iff_pairwise (m : Mem w) : m.wf = true ↔ m.Pairwise (fun x y => x.1 < y.1) := by
  induction m with
  | nil => simp [Mem.wf]
  | cons c rest ih =>
    obtain ⟨a, v⟩ := c
    cases rest with
    | nil => simp [Mem.wf]
    | cons d tail =>
      obtain ⟨b, u⟩ := d
      simp only [Mem.wf, Bool.and_eq_true, decide_eq_true_eq, ih, List.pairwise_cons]
      constructor
      · rintro ⟨hab, hb, ht⟩
        refine ⟨?_, hb, ht⟩
        intro x hx
        rcases List.mem_cons.1 hx with rfl | hx
        · exact hab
        · exact lt_trans hab (hb x hx)
      · rintro ⟨ha, hb, ht⟩
        exact ⟨ha (b, u) (by simp), hb, ht⟩

theorem within_iff (m : Mem w) (cap : Nat) : m.within cap = true ↔ ∀ cell ∈ m, cell.1 < cap := by
  simp [Mem.within]

theorem mem_write {m : Mem w} {k : Nat} {v : BitVec w} {cell : Nat × BitVec w}
    (h : cell ∈ Mem.write m k v) : cell = (k, v) ∨ cell ∈ m := by
  induction m with
  | nil => simpa [Mem.write] using h
  | cons c rest ih =>
    obtain ⟨a, u⟩ := c
    unfold Mem.write at h
    split at h
    · simpa using h
    · split at h
      · rcases List.mem_cons.1 h with h | h
        · exact .inl h
        · exact .inr (by simp [h])
      · rcases List.mem_cons.1 h with h | h
        · exact .inr (by simp [h])
        · rcases ih h with h | h
          · exact .inl h
          · exact .inr (by simp [h])

/-- A write keeps the canonical form. -/
theorem wf_write {m : Mem w} (k : Nat) (v : BitVec w) (h : m.wf = true) : (Mem.write m k v).wf = true := by
  rw [wf_iff_pairwise] at h ⊢
  induction m with
  | nil => simp [Mem.write]
  | cons c rest ih =>
    obtain ⟨a, u⟩ := c
    rw [List.pairwise_cons] at h
    unfold Mem.write
    split
    · rename_i hk
      refine List.pairwise_cons.2 ⟨?_, List.pairwise_cons.2 h⟩
      intro x hx
      rcases List.mem_cons.1 hx with rfl | hx
      · exact hk
      · exact lt_trans hk (h.1 x hx)
    · split
      · rename_i hk
        subst hk
        exact List.pairwise_cons.2 h
      · rename_i h1 h2
        refine List.pairwise_cons.2 ⟨?_, ih h.2⟩
        intro x hx
        rcases mem_write hx with rfl | hx
        · show a < k
          omega
        · exact h.1 x hx

/-- A write at an index below the capacity stays within it. -/
theorem within_write {m : Mem w} {cap k : Nat} (v : BitVec w) (hk : k < cap) (h : m.within cap = true) :
    (Mem.write m k v).within cap = true := by
  rw [within_iff] at h ⊢
  intro cell hc
  rcases mem_write hc with rfl | hc
  · exact hk
  · exact h cell hc

theorem mem_cells {f : Nat → BitVec w} {base n : Nat} {cell : Nat × BitVec w}
    (h : cell ∈ Mem.cells f base n) : base ≤ cell.1 ∧ cell.1 < base + n := by
  induction n generalizing base with
  | zero => simp [Mem.cells] at h
  | succ n ih =>
    rcases List.mem_cons.1 h with rfl | h
    · exact ⟨le_refl _, by show base < base + (n + 1); omega⟩
    · have := ih h
      omega

theorem pairwise_cells (f : Nat → BitVec w) (base n : Nat) :
    (Mem.cells f base n).Pairwise (fun x y => x.1 < y.1) := by
  induction n generalizing base with
  | zero => simp [Mem.cells]
  | succ n ih =>
    refine List.pairwise_cons.2 ⟨?_, ih _⟩
    intro x hx
    have := (mem_cells hx).1
    show base < x.1
    omega

/-- Fresh contents are in canonical form. -/
@[simp] theorem wf_ofFn (n : Nat) (f : Nat → BitVec w) : (Mem.ofFn n f).wf = true :=
  (wf_iff_pairwise _).2 (pairwise_cells f 0 n)

/-- Fresh contents of n elements stay within any capacity of at least n. -/
theorem within_ofFn {n cap : Nat} (f : Nat → BitVec w) (h : n ≤ cap) : (Mem.ofFn n f).within cap = true := by
  rw [within_iff]
  intro cell hc
  have := (mem_cells hc).2
  omega

/-- Writing the first n elements keeps the canonical form. -/
theorem wf_writeFirst {m : Mem w} (n : Nat) (f : Nat → BitVec w) (h : m.wf = true) :
    (Mem.writeFirst m n f).wf = true := by
  rw [wf_iff_pairwise] at h ⊢
  refine List.pairwise_append.2 ⟨pairwise_cells f 0 n, h.filter _, ?_⟩
  intro x hx y hy
  have h1 := (mem_cells hx).2
  have h2 := of_decide_eq_true (List.mem_filter.1 hy).2
  omega

/-- Writing the first n elements, n at most the capacity, stays within it. -/
theorem within_writeFirst {m : Mem w} {n cap : Nat} (f : Nat → BitVec w) (hn : n ≤ cap)
    (h : m.within cap = true) : (Mem.writeFirst m n f).within cap = true := by
  rw [within_iff] at h ⊢
  intro cell hc
  rcases List.mem_append.1 hc with hc | hc
  · have := (mem_cells hc).2
    omega
  · exact h cell (List.mem_filter.1 hc).1

/-- The empty memory, as after reset, is in canonical form within any capacity. -/
@[simp] theorem wf_nil : Mem.wf ([] : Mem w) = true := rfl

@[simp] theorem within_nil (cap : Nat) : Mem.within ([] : Mem w) cap = true := rfl

end Sys2Proof.Machine
end

