-- ==== Sys2Proof/Laws/State.lean ====
section
/-! SUPPORT. For each named update of the state, what each field holds after it: one lemma per field, true by rfl,
so that no later proof unfolds an update. -/

namespace Sys2Proof.Machine

variable (s : State)

@[simp] theorem setCtx_arg (c : Nat) (x : Context) : (s.setCtx c x).arg = s.arg := rfl
@[simp] theorem setCtx_result (c : Nat) (x : Context) : (s.setCtx c x).result = s.result := rfl
@[simp] theorem setCtx_lutValid (c : Nat) (x : Context) : (s.setCtx c x).lutValid = s.lutValid := rfl
@[simp] theorem setCtx_seqValid (c : Nat) (x : Context) : (s.setCtx c x).seqValid = s.seqValid := rfl
@[simp] theorem setCtx_debug (c : Nat) (x : Context) : (s.setCtx c x).debug = s.debug := rfl
@[simp] theorem setCtx_seqCtx (c : Nat) (x : Context) : (s.setCtx c x).seqCtx = s.seqCtx := rfl
@[simp] theorem setCtx_fault (c : Nat) (x : Context) : (s.setCtx c x).fault = s.fault := rfl
@[simp] theorem setCtx_faultInfo (c : Nat) (x : Context) : (s.setCtx c x).faultInfo = s.faultInfo := rfl
@[simp] theorem setCtx_lut (c : Nat) (x : Context) : (s.setCtx c x).lut = s.lut := rfl
@[simp] theorem setCtx_ctxs (c : Nat) (x : Context) : (s.setCtx c x).ctxs = s.ctxs.set c x := rfl
@[simp] theorem setCtx_seq (c : Nat) (x : Context) : (s.setCtx c x).seq = s.seq := rfl
@[simp] theorem setCtx_seqLen (c : Nat) (x : Context) : (s.setCtx c x).seqLen = s.seqLen := rfl
@[simp] theorem setCtx_msg (c : Nat) (x : Context) : (s.setCtx c x).msg = s.msg := rfl
@[simp] theorem setCtx_msgLenBits (c : Nat) (x : Context) : (s.setCtx c x).msgLenBits = s.msgLenBits := rfl
@[simp] theorem setCtx_raw (c : Nat) (x : Context) : (s.setCtx c x).raw = s.raw := rfl
@[simp] theorem setCtx_icao (c : Nat) (x : Context) : (s.setCtx c x).icao = s.icao := rfl
@[simp] theorem setCtx_icaoLen (c : Nat) (x : Context) : (s.setCtx c x).icaoLen = s.icaoLen := rfl
@[simp] theorem setCtx_engine (c : Nat) (x : Context) : (s.setCtx c x).engine = s.engine := rfl
@[simp] theorem setCtx_maxRawBytes (c : Nat) (x : Context) : (s.setCtx c x).maxRawBytes = s.maxRawBytes := rfl
@[simp] theorem setCtx_icaoCap (c : Nat) (x : Context) : (s.setCtx c x).icaoCap = s.icaoCap := rfl
@[simp] theorem setCtx_inputs (c : Nat) (x : Context) : (s.setCtx c x).inputs = s.inputs := rfl
@[simp] theorem setCtx_readOut (c : Nat) (x : Context) : (s.setCtx c x).readOut = s.readOut := rfl
@[simp] theorem setCtx_tick (c : Nat) (x : Context) : (s.setCtx c x).tick = s.tick := rfl
@[simp] theorem setCtx_epoch (c : Nat) (x : Context) : (s.setCtx c x).epoch = s.epoch := rfl

@[simp] theorem raiseFault_arg (f : FaultCode) (w : Word) : (raiseFault f w s).arg = s.arg := rfl
@[simp] theorem raiseFault_result (f : FaultCode) (w : Word) : (raiseFault f w s).result = s.result := rfl
@[simp] theorem raiseFault_lutValid (f : FaultCode) (w : Word) : (raiseFault f w s).lutValid = s.lutValid := rfl
@[simp] theorem raiseFault_seqValid (f : FaultCode) (w : Word) : (raiseFault f w s).seqValid = s.seqValid := rfl
@[simp] theorem raiseFault_debug (f : FaultCode) (w : Word) : (raiseFault f w s).debug = s.debug := rfl
@[simp] theorem raiseFault_seqCtx (f : FaultCode) (w : Word) : (raiseFault f w s).seqCtx = s.seqCtx := rfl
@[simp] theorem raiseFault_fault (f : FaultCode) (w : Word) : (raiseFault f w s).fault = f := rfl
@[simp] theorem raiseFault_faultInfo (f : FaultCode) (w : Word) : (raiseFault f w s).faultInfo = w := rfl
@[simp] theorem raiseFault_lut (f : FaultCode) (w : Word) : (raiseFault f w s).lut = s.lut := rfl
@[simp] theorem raiseFault_ctxs (f : FaultCode) (w : Word) : (raiseFault f w s).ctxs = s.ctxs := rfl
@[simp] theorem raiseFault_seq (f : FaultCode) (w : Word) : (raiseFault f w s).seq = s.seq := rfl
@[simp] theorem raiseFault_seqLen (f : FaultCode) (w : Word) : (raiseFault f w s).seqLen = s.seqLen := rfl
@[simp] theorem raiseFault_msg (f : FaultCode) (w : Word) : (raiseFault f w s).msg = s.msg := rfl
@[simp] theorem raiseFault_msgLenBits (f : FaultCode) (w : Word) : (raiseFault f w s).msgLenBits = s.msgLenBits := rfl
@[simp] theorem raiseFault_raw (f : FaultCode) (w : Word) : (raiseFault f w s).raw = s.raw := rfl
@[simp] theorem raiseFault_icao (f : FaultCode) (w : Word) : (raiseFault f w s).icao = s.icao := rfl
@[simp] theorem raiseFault_icaoLen (f : FaultCode) (w : Word) : (raiseFault f w s).icaoLen = s.icaoLen := rfl
@[simp] theorem raiseFault_engine (f : FaultCode) (w : Word) : (raiseFault f w s).engine = none := rfl
@[simp] theorem raiseFault_maxRawBytes (f : FaultCode) (w : Word) : (raiseFault f w s).maxRawBytes = s.maxRawBytes := rfl
@[simp] theorem raiseFault_icaoCap (f : FaultCode) (w : Word) : (raiseFault f w s).icaoCap = s.icaoCap := rfl
@[simp] theorem raiseFault_inputs (f : FaultCode) (w : Word) : (raiseFault f w s).inputs = s.inputs := rfl
@[simp] theorem raiseFault_readOut (f : FaultCode) (w : Word) : (raiseFault f w s).readOut = s.readOut := rfl
@[simp] theorem raiseFault_tick (f : FaultCode) (w : Word) : (raiseFault f w s).tick = s.tick := rfl
@[simp] theorem raiseFault_epoch (f : FaultCode) (w : Word) : (raiseFault f w s).epoch = s.epoch := rfl

@[simp] theorem abandon_arg (c : Nat) : (abandon c s).arg = s.arg := rfl
@[simp] theorem abandon_result (c : Nat) : (abandon c s).result = Config.overrunResult s.tick := rfl
@[simp] theorem abandon_lutValid (c : Nat) : (abandon c s).lutValid = s.lutValid := rfl
@[simp] theorem abandon_seqValid (c : Nat) : (abandon c s).seqValid = Config.overrunSeqValid s.tick := rfl
@[simp] theorem abandon_debug (c : Nat) : (abandon c s).debug = s.debug := rfl
@[simp] theorem abandon_seqCtx (c : Nat) : (abandon c s).seqCtx = s.seqCtx := rfl
@[simp] theorem abandon_fault (c : Nat) : (abandon c s).fault = s.fault := rfl
@[simp] theorem abandon_faultInfo (c : Nat) : (abandon c s).faultInfo = s.faultInfo := rfl
@[simp] theorem abandon_lut (c : Nat) : (abandon c s).lut = s.lut := rfl
@[simp] theorem abandon_seq (c : Nat) : (abandon c s).seq = s.seq := rfl
@[simp] theorem abandon_seqLen (c : Nat) : (abandon c s).seqLen = s.seqLen := rfl
@[simp] theorem abandon_msgLenBits (c : Nat) : (abandon c s).msgLenBits = 56 * (Config.overrunMsgLen s.tick).val := rfl
@[simp] theorem abandon_raw (c : Nat) : (abandon c s).raw = s.raw := rfl
@[simp] theorem abandon_icao (c : Nat) : (abandon c s).icao = s.icao := rfl
@[simp] theorem abandon_icaoLen (c : Nat) : (abandon c s).icaoLen = s.icaoLen := rfl
@[simp] theorem abandon_engine (c : Nat) : (abandon c s).engine = s.engine := rfl
@[simp] theorem abandon_maxRawBytes (c : Nat) : (abandon c s).maxRawBytes = s.maxRawBytes := rfl
@[simp] theorem abandon_icaoCap (c : Nat) : (abandon c s).icaoCap = s.icaoCap := rfl
@[simp] theorem abandon_inputs (c : Nat) : (abandon c s).inputs = s.inputs := rfl
@[simp] theorem abandon_readOut (c : Nat) : (abandon c s).readOut = s.readOut := rfl
@[simp] theorem abandon_tick (c : Nat) : (abandon c s).tick = s.tick := rfl
@[simp] theorem abandon_epoch (c : Nat) : (abandon c s).epoch = s.epoch := rfl

@[simp] theorem resetBlock_arg : (resetBlock s).arg = 0 := rfl
@[simp] theorem resetBlock_result : (resetBlock s).result = 0 := rfl
@[simp] theorem resetBlock_lutValid : (resetBlock s).lutValid = false := rfl
@[simp] theorem resetBlock_seqValid : (resetBlock s).seqValid = false := rfl
@[simp] theorem resetBlock_debug : (resetBlock s).debug = false := rfl
@[simp] theorem resetBlock_seqCtx : (resetBlock s).seqCtx = 0 := rfl
@[simp] theorem resetBlock_fault : (resetBlock s).fault = .noFault := rfl
@[simp] theorem resetBlock_faultInfo : (resetBlock s).faultInfo = 0 := rfl
@[simp] theorem resetBlock_lut : (resetBlock s).lut = [] := rfl
@[simp] theorem resetBlock_ctxs : (resetBlock s).ctxs = List.replicate s.ctxs.length Context.blank := rfl
@[simp] theorem resetBlock_seq : (resetBlock s).seq = [] := rfl
@[simp] theorem resetBlock_seqLen : (resetBlock s).seqLen = 0 := rfl
@[simp] theorem resetBlock_msgLenBits : (resetBlock s).msgLenBits = 0 := rfl
@[simp] theorem resetBlock_raw : (resetBlock s).raw = [] := rfl
@[simp] theorem resetBlock_icao : (resetBlock s).icao = [] := rfl
@[simp] theorem resetBlock_icaoLen : (resetBlock s).icaoLen = 0 := rfl
@[simp] theorem resetBlock_engine : (resetBlock s).engine = none := rfl
@[simp] theorem resetBlock_maxRawBytes : (resetBlock s).maxRawBytes = s.maxRawBytes := rfl
@[simp] theorem resetBlock_icaoCap : (resetBlock s).icaoCap = s.icaoCap := rfl
@[simp] theorem resetBlock_inputs : (resetBlock s).inputs = s.inputs := rfl
@[simp] theorem resetBlock_readOut : (resetBlock s).readOut = s.readOut := rfl
@[simp] theorem resetBlock_tick : (resetBlock s).tick = s.tick := rfl
@[simp] theorem resetBlock_epoch : (resetBlock s).epoch = s.tick := rfl

@[simp] theorem lutinitBody_arg (dbg : Nat) : (lutinitBody dbg s).arg = s.arg := rfl
@[simp] theorem lutinitBody_result (dbg : Nat) : (lutinitBody dbg s).result = s.result := rfl
@[simp] theorem lutinitBody_lutValid (dbg : Nat) : (lutinitBody dbg s).lutValid = true := rfl
@[simp] theorem lutinitBody_seqValid (dbg : Nat) : (lutinitBody dbg s).seqValid = s.seqValid := rfl
@[simp] theorem lutinitBody_debug (dbg : Nat) : (lutinitBody dbg s).debug = decide (dbg = 1) := rfl
@[simp] theorem lutinitBody_seqCtx (dbg : Nat) : (lutinitBody dbg s).seqCtx = s.seqCtx := rfl
@[simp] theorem lutinitBody_fault (dbg : Nat) : (lutinitBody dbg s).fault = s.fault := rfl
@[simp] theorem lutinitBody_faultInfo (dbg : Nat) : (lutinitBody dbg s).faultInfo = s.faultInfo := rfl
@[simp] theorem lutinitBody_lut (dbg : Nat) : (lutinitBody dbg s).lut = Mem.ofFn (Config.lutDim * Config.lutDim) tableEntry := rfl
@[simp] theorem lutinitBody_ctxs (dbg : Nat) : (lutinitBody dbg s).ctxs = s.ctxs := rfl
@[simp] theorem lutinitBody_seq (dbg : Nat) : (lutinitBody dbg s).seq = s.seq := rfl
@[simp] theorem lutinitBody_seqLen (dbg : Nat) : (lutinitBody dbg s).seqLen = s.seqLen := rfl
@[simp] theorem lutinitBody_msg (dbg : Nat) : (lutinitBody dbg s).msg = s.msg := rfl
@[simp] theorem lutinitBody_msgLenBits (dbg : Nat) : (lutinitBody dbg s).msgLenBits = s.msgLenBits := rfl
@[simp] theorem lutinitBody_raw (dbg : Nat) : (lutinitBody dbg s).raw = s.raw := rfl
@[simp] theorem lutinitBody_icao (dbg : Nat) : (lutinitBody dbg s).icao = s.icao := rfl
@[simp] theorem lutinitBody_icaoLen (dbg : Nat) : (lutinitBody dbg s).icaoLen = s.icaoLen := rfl
@[simp] theorem lutinitBody_engine (dbg : Nat) : (lutinitBody dbg s).engine = s.engine := rfl
@[simp] theorem lutinitBody_maxRawBytes (dbg : Nat) : (lutinitBody dbg s).maxRawBytes = s.maxRawBytes := rfl
@[simp] theorem lutinitBody_icaoCap (dbg : Nat) : (lutinitBody dbg s).icaoCap = s.icaoCap := rfl
@[simp] theorem lutinitBody_inputs (dbg : Nat) : (lutinitBody dbg s).inputs = s.inputs := rfl
@[simp] theorem lutinitBody_readOut (dbg : Nat) : (lutinitBody dbg s).readOut = s.readOut := rfl
@[simp] theorem lutinitBody_tick (dbg : Nat) : (lutinitBody dbg s).tick = s.tick := rfl
@[simp] theorem lutinitBody_epoch (dbg : Nat) : (lutinitBody dbg s).epoch = s.epoch := rfl

@[simp] theorem convertBody_arg (c n : Nat) : (convertBody c n s).arg = s.arg := rfl
@[simp] theorem convertBody_result (c n : Nat) : (convertBody c n s).result = BitVec.ofNat 32 (convertedLen c n s) := rfl
@[simp] theorem convertBody_lutValid (c n : Nat) : (convertBody c n s).lutValid = s.lutValid := rfl
@[simp] theorem convertBody_seqValid (c n : Nat) : (convertBody c n s).seqValid = true := rfl
@[simp] theorem convertBody_debug (c n : Nat) : (convertBody c n s).debug = s.debug := rfl
@[simp] theorem convertBody_seqCtx (c n : Nat) : (convertBody c n s).seqCtx = c := rfl
@[simp] theorem convertBody_fault (c n : Nat) : (convertBody c n s).fault = s.fault := rfl
@[simp] theorem convertBody_faultInfo (c n : Nat) : (convertBody c n s).faultInfo = s.faultInfo := rfl
@[simp] theorem convertBody_lut (c n : Nat) : (convertBody c n s).lut = s.lut := rfl
@[simp] theorem convertBody_ctxs (c n : Nat) : (convertBody c n s).ctxs = s.ctxs := rfl
@[simp] theorem convertBody_seq (c n : Nat) : (convertBody c n s).seq = Mem.ofFn (convertedLen c n s) (convertedSample c s) := rfl
@[simp] theorem convertBody_seqLen (c n : Nat) : (convertBody c n s).seqLen = convertedLen c n s := rfl
@[simp] theorem convertBody_msg (c n : Nat) : (convertBody c n s).msg = s.msg := rfl
@[simp] theorem convertBody_msgLenBits (c n : Nat) : (convertBody c n s).msgLenBits = s.msgLenBits := rfl
@[simp] theorem convertBody_raw (c n : Nat) : (convertBody c n s).raw = s.raw := rfl
@[simp] theorem convertBody_icao (c n : Nat) : (convertBody c n s).icao = s.icao := rfl
@[simp] theorem convertBody_icaoLen (c n : Nat) : (convertBody c n s).icaoLen = s.icaoLen := rfl
@[simp] theorem convertBody_engine (c n : Nat) : (convertBody c n s).engine = s.engine := rfl
@[simp] theorem convertBody_maxRawBytes (c n : Nat) : (convertBody c n s).maxRawBytes = s.maxRawBytes := rfl
@[simp] theorem convertBody_icaoCap (c n : Nat) : (convertBody c n s).icaoCap = s.icaoCap := rfl
@[simp] theorem convertBody_inputs (c n : Nat) : (convertBody c n s).inputs = s.inputs := rfl
@[simp] theorem convertBody_readOut (c n : Nat) : (convertBody c n s).readOut = s.readOut := rfl
@[simp] theorem convertBody_tick (c n : Nat) : (convertBody c n s).tick = s.tick := rfl
@[simp] theorem convertBody_epoch (c n : Nat) : (convertBody c n s).epoch = s.epoch := rfl

@[simp] theorem demodulate_arg (p : Nat) : (demodulate p s).arg = s.arg := rfl
@[simp] theorem demodulate_result (p : Nat) : (demodulate p s).result = s.result := rfl
@[simp] theorem demodulate_lutValid (p : Nat) : (demodulate p s).lutValid = s.lutValid := rfl
@[simp] theorem demodulate_seqValid (p : Nat) : (demodulate p s).seqValid = s.seqValid := rfl
@[simp] theorem demodulate_debug (p : Nat) : (demodulate p s).debug = s.debug := rfl
@[simp] theorem demodulate_seqCtx (p : Nat) : (demodulate p s).seqCtx = s.seqCtx := rfl
@[simp] theorem demodulate_fault (p : Nat) : (demodulate p s).fault = s.fault := rfl
@[simp] theorem demodulate_faultInfo (p : Nat) : (demodulate p s).faultInfo = s.faultInfo := rfl
@[simp] theorem demodulate_lut (p : Nat) : (demodulate p s).lut = s.lut := rfl
@[simp] theorem demodulate_ctxs (p : Nat) : (demodulate p s).ctxs = s.ctxs := rfl
@[simp] theorem demodulate_seq (p : Nat) : (demodulate p s).seq = s.seq := rfl
@[simp] theorem demodulate_seqLen (p : Nat) : (demodulate p s).seqLen = s.seqLen := rfl
@[simp] theorem demodulate_msg (p : Nat) : (demodulate p s).msg = demodMsg s p := rfl
@[simp] theorem demodulate_msgLenBits (p : Nat) : (demodulate p s).msgLenBits = demodBits s p := rfl
@[simp] theorem demodulate_raw (p : Nat) : (demodulate p s).raw = s.raw := rfl
@[simp] theorem demodulate_icao (p : Nat) : (demodulate p s).icao = s.icao := rfl
@[simp] theorem demodulate_icaoLen (p : Nat) : (demodulate p s).icaoLen = s.icaoLen := rfl
@[simp] theorem demodulate_engine (p : Nat) : (demodulate p s).engine = s.engine := rfl
@[simp] theorem demodulate_maxRawBytes (p : Nat) : (demodulate p s).maxRawBytes = s.maxRawBytes := rfl
@[simp] theorem demodulate_icaoCap (p : Nat) : (demodulate p s).icaoCap = s.icaoCap := rfl
@[simp] theorem demodulate_inputs (p : Nat) : (demodulate p s).inputs = s.inputs := rfl
@[simp] theorem demodulate_readOut (p : Nat) : (demodulate p s).readOut = s.readOut := rfl
@[simp] theorem demodulate_tick (p : Nat) : (demodulate p s).tick = s.tick := rfl
@[simp] theorem demodulate_epoch (p : Nat) : (demodulate p s).epoch = s.epoch := rfl

@[simp] theorem acceptWindow_arg (e : Engine) : (acceptWindow e s).arg = s.arg := rfl
@[simp] theorem acceptWindow_result (e : Engine) : (acceptWindow e s).result = s.result := rfl
@[simp] theorem acceptWindow_lutValid (e : Engine) : (acceptWindow e s).lutValid = s.lutValid := rfl
@[simp] theorem acceptWindow_seqValid (e : Engine) : (acceptWindow e s).seqValid = s.seqValid := rfl
@[simp] theorem acceptWindow_debug (e : Engine) : (acceptWindow e s).debug = s.debug := rfl
@[simp] theorem acceptWindow_seqCtx (e : Engine) : (acceptWindow e s).seqCtx = s.seqCtx := rfl
@[simp] theorem acceptWindow_fault (e : Engine) : (acceptWindow e s).fault = s.fault := rfl
@[simp] theorem acceptWindow_faultInfo (e : Engine) : (acceptWindow e s).faultInfo = s.faultInfo := rfl
@[simp] theorem acceptWindow_lut (e : Engine) : (acceptWindow e s).lut = s.lut := rfl
@[simp] theorem acceptWindow_ctxs (e : Engine) : (acceptWindow e s).ctxs = s.ctxs := rfl
@[simp] theorem acceptWindow_seq (e : Engine) : (acceptWindow e s).seq = s.seq := rfl
@[simp] theorem acceptWindow_seqLen (e : Engine) : (acceptWindow e s).seqLen = s.seqLen := rfl
@[simp] theorem acceptWindow_msg (e : Engine) : (acceptWindow e s).msg = demodMsg s (e.i + Config.pre) := rfl
@[simp] theorem acceptWindow_msgLenBits (e : Engine) : (acceptWindow e s).msgLenBits = demodBits s (e.i + Config.pre) := rfl
@[simp] theorem acceptWindow_raw (e : Engine) : (acceptWindow e s).raw = s.raw := rfl
@[simp] theorem acceptWindow_icao (e : Engine) : (acceptWindow e s).icao = s.icao := rfl
@[simp] theorem acceptWindow_icaoLen (e : Engine) : (acceptWindow e s).icaoLen = s.icaoLen := rfl
@[simp] theorem acceptWindow_engine (e : Engine) : (acceptWindow e s).engine = some { e with phase := .waitConsumer } := rfl
@[simp] theorem acceptWindow_maxRawBytes (e : Engine) : (acceptWindow e s).maxRawBytes = s.maxRawBytes := rfl
@[simp] theorem acceptWindow_icaoCap (e : Engine) : (acceptWindow e s).icaoCap = s.icaoCap := rfl
@[simp] theorem acceptWindow_inputs (e : Engine) : (acceptWindow e s).inputs = s.inputs := rfl
@[simp] theorem acceptWindow_readOut (e : Engine) : (acceptWindow e s).readOut = s.readOut := rfl
@[simp] theorem acceptWindow_tick (e : Engine) : (acceptWindow e s).tick = s.tick := rfl
@[simp] theorem acceptWindow_epoch (e : Engine) : (acceptWindow e s).epoch = s.epoch := rfl

@[simp] theorem copyback_arg (c i : Nat) : (copyback c i s).arg = s.arg := rfl
@[simp] theorem copyback_result (c i : Nat) : (copyback c i s).result = s.result := rfl
@[simp] theorem copyback_lutValid (c i : Nat) : (copyback c i s).lutValid = s.lutValid := rfl
@[simp] theorem copyback_seqValid (c i : Nat) : (copyback c i s).seqValid = false := rfl
@[simp] theorem copyback_debug (c i : Nat) : (copyback c i s).debug = s.debug := rfl
@[simp] theorem copyback_seqCtx (c i : Nat) : (copyback c i s).seqCtx = s.seqCtx := rfl
@[simp] theorem copyback_fault (c i : Nat) : (copyback c i s).fault = s.fault := rfl
@[simp] theorem copyback_faultInfo (c i : Nat) : (copyback c i s).faultInfo = s.faultInfo := rfl
@[simp] theorem copyback_lut (c i : Nat) : (copyback c i s).lut = s.lut := rfl
@[simp] theorem copyback_seq (c i : Nat) : (copyback c i s).seq = s.seq := rfl
@[simp] theorem copyback_seqLen (c i : Nat) : (copyback c i s).seqLen = s.seqLen := rfl
@[simp] theorem copyback_msg (c i : Nat) : (copyback c i s).msg = s.msg := rfl
@[simp] theorem copyback_msgLenBits (c i : Nat) : (copyback c i s).msgLenBits = s.msgLenBits := rfl
@[simp] theorem copyback_raw (c i : Nat) : (copyback c i s).raw = s.raw := rfl
@[simp] theorem copyback_icao (c i : Nat) : (copyback c i s).icao = s.icao := rfl
@[simp] theorem copyback_icaoLen (c i : Nat) : (copyback c i s).icaoLen = s.icaoLen := rfl
@[simp] theorem copyback_engine (c i : Nat) : (copyback c i s).engine = s.engine := rfl
@[simp] theorem copyback_maxRawBytes (c i : Nat) : (copyback c i s).maxRawBytes = s.maxRawBytes := rfl
@[simp] theorem copyback_icaoCap (c i : Nat) : (copyback c i s).icaoCap = s.icaoCap := rfl
@[simp] theorem copyback_inputs (c i : Nat) : (copyback c i s).inputs = s.inputs := rfl
@[simp] theorem copyback_readOut (c i : Nat) : (copyback c i s).readOut = s.readOut := rfl
@[simp] theorem copyback_tick (c i : Nat) : (copyback c i s).tick = s.tick := rfl
@[simp] theorem copyback_epoch (c i : Nat) : (copyback c i s).epoch = s.epoch := rfl

@[simp] theorem endScan_arg (e : Engine) : (endScan e s).arg = s.arg := rfl
@[simp] theorem endScan_result (e : Engine) : (endScan e s).result = e.acc := rfl
@[simp] theorem endScan_lutValid (e : Engine) : (endScan e s).lutValid = s.lutValid := rfl
@[simp] theorem endScan_seqValid (e : Engine) : (endScan e s).seqValid = false := rfl
@[simp] theorem endScan_debug (e : Engine) : (endScan e s).debug = s.debug := rfl
@[simp] theorem endScan_seqCtx (e : Engine) : (endScan e s).seqCtx = s.seqCtx := rfl
@[simp] theorem endScan_fault (e : Engine) : (endScan e s).fault = s.fault := rfl
@[simp] theorem endScan_faultInfo (e : Engine) : (endScan e s).faultInfo = s.faultInfo := rfl
@[simp] theorem endScan_lut (e : Engine) : (endScan e s).lut = s.lut := rfl
@[simp] theorem endScan_ctxs (e : Engine) : (endScan e s).ctxs = (copyback e.ctx e.i s).ctxs := rfl
@[simp] theorem endScan_seq (e : Engine) : (endScan e s).seq = s.seq := rfl
@[simp] theorem endScan_seqLen (e : Engine) : (endScan e s).seqLen = s.seqLen := rfl
@[simp] theorem endScan_msg (e : Engine) : (endScan e s).msg = s.msg := rfl
@[simp] theorem endScan_msgLenBits (e : Engine) : (endScan e s).msgLenBits = s.msgLenBits := rfl
@[simp] theorem endScan_raw (e : Engine) : (endScan e s).raw = s.raw := rfl
@[simp] theorem endScan_icao (e : Engine) : (endScan e s).icao = s.icao := rfl
@[simp] theorem endScan_icaoLen (e : Engine) : (endScan e s).icaoLen = s.icaoLen := rfl
@[simp] theorem endScan_engine (e : Engine) : (endScan e s).engine = none := rfl
@[simp] theorem endScan_maxRawBytes (e : Engine) : (endScan e s).maxRawBytes = s.maxRawBytes := rfl
@[simp] theorem endScan_icaoCap (e : Engine) : (endScan e s).icaoCap = s.icaoCap := rfl
@[simp] theorem endScan_inputs (e : Engine) : (endScan e s).inputs = s.inputs := rfl
@[simp] theorem endScan_readOut (e : Engine) : (endScan e s).readOut = s.readOut := rfl
@[simp] theorem endScan_tick (e : Engine) : (endScan e s).tick = s.tick := rfl
@[simp] theorem endScan_epoch (e : Engine) : (endScan e s).epoch = s.epoch := rfl

end Sys2Proof.Machine
end

