-- ==== Sys2Proof/Laws/Ops.lean ====
section
/-! SUPPORT. What each shared operation can do, said once: contexts, checks and fault entry, element reads, the scan,
and the step. -/

namespace Sys2Proof.Machine

/-! ### Context slots -/

theorem ctx_setCtx (s : State) (c d : Nat) (x : Context) :
    (s.setCtx c x).ctx d = if d = c ∧ c < s.numContexts then x else s.ctx d := by
  simp only [State.ctx, State.numContexts, setCtx_ctxs, List.getD_eq_getElem?_getD, List.getElem?_set]
  by_cases h : c = d
  · subst h
    by_cases hc : c < s.ctxs.length <;> simp [hc]
  · have h' : ¬ d = c := fun e => h e.symm
    simp [h, h']

/-- A slot's contents after any update whose context store is `s`'s with slot c replaced. -/
theorem ctx_of_ctxs_set {s t : State} {c : Nat} {x : Context} (h : t.ctxs = s.ctxs.set c x) (d : Nat) :
    t.ctx d = if d = c ∧ c < s.numContexts then x else s.ctx d := by
  have : t.ctx d = (s.setCtx c x).ctx d := by simp [State.ctx, h]
  rw [this, ctx_setCtx]

@[simp] theorem numContexts_setCtx (s : State) (c : Nat) (x : Context) :
    (s.setCtx c x).numContexts = s.numContexts := by
  simp [State.numContexts]

theorem ctx_congr {s t : State} (h : t.ctxs = s.ctxs) (c : Nat) : t.ctx c = s.ctx c := by
  simp [State.ctx, h]

/-- Every slot after Reset is blank. -/
@[simp] theorem ctx_resetWith (n r k c : Nat) : (State.resetWith n r k).ctx c = Context.blank := by
  simp only [State.ctx, State.resetWith, List.getD_eq_getElem?_getD, List.getElem?_replicate]
  split <;> rfl

@[simp] theorem numContexts_resetWith (n r k : Nat) : (State.resetWith n r k).numContexts = n := by
  simp [State.numContexts, State.resetWith]

/-! ### Checks and fault entry -/

@[simp] theorem firstFault_nil : firstFault [] = none := rfl

@[simp] theorem firstFault_cons (b : Bool) (f : FaultCode) (rest : List (Bool × FaultCode)) :
    firstFault ((b, f) :: rest) = if b then some f else firstFault rest := rfl

/-- No check fails exactly when all of them are false. -/
theorem firstFault_eq_none_iff (checks : List (Bool × FaultCode)) :
    firstFault checks = none ↔ ∀ x ∈ checks, x.1 = false := by
  induction checks with
  | nil => simp
  | cons x rest ih =>
    obtain ⟨b, f⟩ := x
    cases b <;> simp [ih]

/-- A command either takes the fault of its first failing check or does what its body does. -/
theorem checked_cases (w : Word) (checks : List (Bool × FaultCode)) (body : State → State) (s : State) :
    (∃ f, firstFault checks = some f ∧ checked w checks body s = raiseFault f w s) ∨
    (firstFault checks = none ∧ checked w checks body s = body s) := by
  unfold checked
  cases h : firstFault checks with
  | some f => exact .inl ⟨f, rfl, rfl⟩
  | none => exact .inr ⟨rfl, rfl⟩

theorem checked_pass {w : Word} {checks : List (Bool × FaultCode)} {body : State → State} {s : State}
    (h : firstFault checks = none) : checked w checks body s = body s := by
  simp [checked, h]

theorem checked_fail {w : Word} {checks : List (Bool × FaultCode)} {body : State → State} {s : State}
    {f : FaultCode} (h : firstFault checks = some f) : checked w checks body s = raiseFault f w s := by
  simp [checked, h]

theorem convertChecks_pass {c n : Nat} {s : State} (h : ConvertReady c n s) :
    firstFault (convertChecks c n s) = none := by
  have h1 : ¬ s.numContexts ≤ c := Nat.not_le.2 h.index
  have h2 : ¬ s.maxRawBytes < n := Nat.not_lt.2 h.fits
  simp [convertChecks, h.table, h.created, h.free, h1, h2]

theorem sequenceChecks_pass {c : Nat} {s : State} (h : SequenceReady c s) (rest : List (Bool × FaultCode)) :
    firstFault (sequenceChecks c s ++ rest) = firstFault rest := by
  have h1 := h.index
  have h2 : ¬ c ≥ s.numContexts := by omega
  simp [sequenceChecks, h.created, h.pending, h.owner, h2]

/-! ### Reading an element -/

theorem seqAt_ofFn {s : State} {n : Nat} {f : Nat → Sample} (h : s.seq = Mem.ofFn n f) {k : Nat} (hk : k < n) :
    s.seqAt k = f k := by
  simp [State.seqAt, h, hk]

theorem lutAt_lutinitBody (dbg : Nat) (s : State) {k : Nat} (hk : k < 129 * 129) :
    (lutinitBody dbg s).lutAt k = tableEntry k := by
  simp [State.lutAt, hk]

theorem seqAt_convertBody (c n : Nat) (s : State) {k : Nat} (hk : k < convertedLen c n s) :
    (convertBody c n s).seqAt k = convertedSample c s k := by
  simp [State.seqAt, hk]

/-! ### The scan -/

/-- Everything a running scan's step can do: it stops at the first accepted window at or after its index, with
the delivery pending, or tests every window up to the bound and ends at the bound (or where it stood, beyond it). -/
theorem scanLoop_cases (s : State) (n : Nat) (e : Engine) :
    (∃ j, e.i ≤ j ∧ j < e.i + n ∧ verdict (s.window j) = 0 ∧
      (∀ k, e.i ≤ k → k < j → verdict (s.window k) ≠ 0) ∧
      scanLoop s n e = acceptWindow { e with i := j } s) ∨
    ((∀ k, e.i ≤ k → k < e.i + n → verdict (s.window k) ≠ 0) ∧
      scanLoop s n e = endScan { e with i := e.i + n } s) := by
  induction n generalizing e with
  | zero => exact .inr ⟨fun k h1 h2 => by omega, rfl⟩
  | succ n ih =>
    unfold scanLoop
    by_cases hv : verdict (s.window e.i) = 0
    · exact .inl ⟨e.i, le_refl _, by omega, hv, fun k h1 h2 => by omega, by simp [hv]⟩
    · simp only [hv, if_false]
      rcases ih { e with i := e.i + 1 } with ⟨j, h1, h2, h3, h4, h5⟩ | ⟨h1, h2⟩
      · refine .inl ⟨j, by simp only at h1; omega, by simp only at h2; omega, h3, ?_, h5⟩
        intro k hk1 hk2
        rcases Nat.eq_or_lt_of_le hk1 with rfl | hk
        · exact hv
        · exact h4 k hk hk2
      · refine .inr ⟨?_, by rw [h2]; simp only [Nat.add_assoc, Nat.add_comm 1 n]⟩
        intro k hk1 hk2
        rcases Nat.eq_or_lt_of_le hk1 with rfl | hk
        · exact hv
        · exact h1 k hk (by simp only; omega)

/-- `scanRun` by where it stops: an accepted window below the bound of R155, or the bound itself. -/
theorem scanRun_cases (e : Engine) (s : State) :
    (∃ j, e.i ≤ j ∧ j + Config.scanWindow < s.seqLen ∧ verdict (s.window j) = 0 ∧
      (∀ k, e.i ≤ k → k < j → verdict (s.window k) ≠ 0) ∧
      scanRun e s = acceptWindow { e with i := j } s) ∨
    ((∀ k, e.i ≤ k → k + Config.scanWindow < s.seqLen → verdict (s.window k) ≠ 0) ∧
      scanRun e s = endScan { e with i := max e.i (s.seqLen - Config.scanWindow) } s) := by
  have hn : windowsLeft s e.i = s.seqLen - 240 - e.i := rfl
  rcases scanLoop_cases s (windowsLeft s e.i) e with ⟨j, h1, h2, h3, h4, h5⟩ | ⟨h1, h2⟩
  · exact .inl ⟨j, h1, by show j + 240 < _; omega, h3, h4, h5⟩
  · refine .inr ⟨fun k hk1 hk2 => h1 k hk1 ?_, ?_⟩
    · have : k + 240 < s.seqLen := hk2
      omega
    · have : e.i + windowsLeft s e.i = max e.i (s.seqLen - Config.scanWindow) := by
        show _ = max e.i (s.seqLen - 240)
        omega
      rw [show scanRun e s = scanLoop s (windowsLeft s e.i) e from rfl, h2, this]

/-- A scan that meets an accepted window stops at the first one. -/
theorem scanRun_accept {e : Engine} {s : State} {j : Nat} (hij : e.i ≤ j)
    (hj : j + Config.scanWindow < s.seqLen) (hv : verdict (s.window j) = 0)
    (hb : ∀ k, e.i ≤ k → k < j → verdict (s.window k) ≠ 0) :
    scanRun e s = acceptWindow { e with i := j } s := by
  rcases scanRun_cases e s with ⟨j', h1, h2, h3, h4, h5⟩ | ⟨h1, _⟩
  · rcases lt_trichotomy j j' with h | h | h
    · exact absurd hv (h4 j hij h)
    · subst h
      exact h5
    · exact absurd h3 (hb j' h1 h)
  · exact absurd hv (h1 j hij hj)

/-- A scan that meets no accepted window ends at the bound. -/
theorem scanRun_end {e : Engine} {s : State}
    (hb : ∀ k, e.i ≤ k → k + Config.scanWindow < s.seqLen → verdict (s.window k) ≠ 0) :
    scanRun e s = endScan { e with i := max e.i (s.seqLen - Config.scanWindow) } s := by
  rcases scanRun_cases e s with ⟨j, h1, h2, h3, _, _⟩ | ⟨_, h2⟩
  · exact absurd h3 (hb j h1 h2)
  · exact h2

theorem ctx_endScan (e : Engine) (s : State) (d : Nat) :
    (endScan e s).ctx d = if d = e.ctx ∧ e.ctx < s.numContexts then
      { s.ctx e.ctx with
        carry := Mem.ofFn (s.seqLen - e.i) (fun k => s.seqAt (e.i + k))
        carryLen := s.seqLen - e.i
        diagOffset := (s.ctx e.ctx).diagOffset + BitVec.ofNat 64 e.i }
    else s.ctx d :=
  ctx_of_ctxs_set (s := s) rfl d

theorem ctx_abandon (c : Nat) (s : State) (d : Nat) :
    (abandon c s).ctx d = if d = c ∧ c < s.numContexts then
      { s.ctx c with
        carry := Mem.ofFn Config.carryCap (Config.overrunCarry s.tick)
        carryLen := (Config.overrunCarryLen s.tick).val
        diagOffset := Config.overrunDiag s.tick }
    else s.ctx d :=
  ctx_of_ctxs_set (s := s) rfl d

/-! ### The step -/

/-- Everything a host write can do: ignored in the fault state, an overrun while a command runs, performed in the
idle block. -/
theorem hostWrite_cases (info : Word) (p : State → Host.Outcome State Fault Refusal) (s : State) :
    (s.fault ≠ .noFault ∧ hostWrite info p s = .next s) ∨
    (∃ e, s.fault = .noFault ∧ s.engine = some e ∧ hostWrite info p s = .next (overrun info e s)) ∨
    (s.fault = .noFault ∧ s.engine = none ∧ hostWrite info p s = p s) := by
  unfold hostWrite
  by_cases h : s.fault = .noFault
  · cases he : s.engine with
    | some e => exact .inr (.inl ⟨e, h, rfl, by simp [h]⟩)
    | none => exact .inr (.inr ⟨h, rfl, by simp [h]⟩)
  · exact .inl ⟨h, by simp [h]⟩

/-- A block that is idle, or waits for the consumer, performs the environment's next operation. -/
theorem step_operation {s : State} {op : PortOp} {rest : List PortOp} (hi : s.inputs = op :: rest)
    (he : ∀ e, s.engine = some e → e.phase = .waitConsumer) :
    step s = perform op (takeInput op rest s) := by
  unfold step blockStep
  cases h : s.engine with
  | none => simp [nextOperation, hi]
  | some e => simp [he e h, nextOperation, hi]

/-- With no operation to perform the block keeps its state. -/
theorem step_idle {s : State} (hi : s.inputs = []) (he : ∀ e, s.engine = some e → e.phase = .waitConsumer) :
    step s = .next s := by
  unfold step blockStep
  cases h : s.engine with
  | none => simp [nextOperation, hi]
  | some e => simp [he e h, nextOperation, hi]

theorem step_scanning {s : State} {e : Engine} (h : s.engine = some e) (hp : e.phase = .scanning) :
    step s = .next (scanRun e s) := by
  simp [step, blockStep, h, hp]

/-- Everything a step can be: a scan running on, a block with nothing to do, or a port operation. -/
theorem step_cases (s : State) :
    (∃ e, s.engine = some e ∧ e.phase = .scanning ∧ step s = .next (scanRun e s)) ∨
    ((∀ e, s.engine = some e → e.phase = .waitConsumer) ∧ s.inputs = [] ∧ step s = .next s) ∨
    (∃ op rest, (∀ e, s.engine = some e → e.phase = .waitConsumer) ∧ s.inputs = op :: rest ∧
      step s = perform op (takeInput op rest s)) := by
  by_cases h : ∃ e, s.engine = some e ∧ e.phase = .scanning
  · obtain ⟨e, h1, h2⟩ := h
    exact .inl ⟨e, h1, h2, step_scanning h1 h2⟩
  · have he : ∀ e, s.engine = some e → e.phase = .waitConsumer := by
      intro e h1
      cases hp : e.phase with
      | scanning => exact absurd ⟨e, h1, hp⟩ h
      | waitConsumer => rfl
    cases hi : s.inputs with
    | nil => exact .inr (.inl ⟨he, rfl, step_idle hi he⟩)
    | cons op rest => exact .inr (.inr ⟨op, rest, he, rfl, step_operation hi he⟩)

/-- Every command answers a next state: a fault of the block is a state, not a stop. -/
theorem exec_next (i : Instr) (s : State) : ∃ t, exec i s = .next t := by
  cases i <;> exact ⟨_, rfl⟩

/-! ### The sort's walk -/

/-- A swap exchanges two entries and keeps every other. -/
theorem icaoAt_swapEntries (i : Nat) (s : State) (k : Nat) :
    (swapEntries i s).icaoAt k =
      if k = i then s.icaoAt (i - 1) else if k = i - 1 then s.icaoAt i else s.icaoAt k := by
  simp only [State.icaoAt, swapEntries, find_write]
  split
  · rfl
  · split <;> rfl

@[simp] theorem swapEntries_icaoLen (i : Nat) (s : State) : (swapEntries i s).icaoLen = s.icaoLen := rfl

/-- Everything a walk from a position i ≥ 1 can do besides ordering the list: it writes the list memory alone, no entry at
or beyond ICAO_LEN, and keeps the memory's canonical form and capacity. -/
theorem sortWalk_frame (steps i : Nat) (s : State) :
    sortWalk steps i s = { s with icao := (sortWalk steps i s).icao } ∧
    (∀ k, s.icaoLen ≤ k → (sortWalk steps i s).icao.find k = s.icao.find k) ∧
    (s.icao.wf = true → (sortWalk steps i s).icao.wf = true) ∧
    (∀ cap, s.icaoLen ≤ cap → s.icao.within cap = true → (sortWalk steps i s).icao.within cap = true) := by
  induction steps generalizing i s with
  | zero => exact ⟨rfl, fun _ _ => rfl, id, fun _ _ h => h⟩
  | succ steps ih =>
    rw [sortWalk]
    split
    · rename_i hi
      split
      · obtain ⟨h1, h2, h3, h4⟩ := ih (if i > 1 then i - 1 else i) (swapEntries i s)
        refine ⟨h1, fun k hk => ?_, fun h => h3 (wf_write _ _ (wf_write _ _ h)), fun cap hc h => ?_⟩
        · rw [h2 k hk]
          simp only [swapEntries, find_write, if_neg (show ¬ k = i by omega), if_neg (show ¬ k = i - 1 by omega)]
        · exact h4 cap hc (within_write _ (by omega) (within_write _ (by omega) h))
      · exact ih (i + 1) s
    · exact ⟨rfl, fun _ _ => rfl, id, fun _ _ h => h⟩

/-! ### A stream's buffers (R166) -/

/-- A loaded buffer's byte, and what RAW held before beyond it. -/
theorem rawAt_loadRaw (buffer : List Byte) (s : State) (k : Nat) :
    (loadRaw buffer s).rawAt k = if k < buffer.length then buffer.getD k 0 else s.rawAt k := by
  simp only [State.rawAt, loadRaw, find_writeFirst]
  split <;> rfl

@[simp] theorem loadRaw_ctx (buffer : List Byte) (s : State) (c : Nat) : (loadRaw buffer s).ctx c = s.ctx c := rfl

@[simp] theorem loadRaw_numContexts (buffer : List Byte) (s : State) :
    (loadRaw buffer s).numContexts = s.numContexts := rfl

/-- With no delivery pending there is nothing to answer. -/
theorem answerAll_of_not_waiting (consumer : DiagCount → List Byte → Word) (bound : Nat) {s : State}
    (h : s.waiting = none) : answerAll consumer bound s = ([], s) := by
  cases bound with
  | zero => rfl
  | succ n => simp [answerAll, h]

/-- Loading a buffer breaks none of the conditions under which PROC runs. -/
theorem convertReady_loadRaw {c n : Nat} {s : State} (buffer : List Byte) (h : ConvertReady c n s) :
    ConvertReady c n (loadRaw buffer s) :=
  ⟨h.index, h.table, h.created, h.fits, h.free⟩

/-- A buffer for which PROC passes its checks is converted and scanned, and every delivery is answered. -/
theorem processBuffer_of_ready (consumer : DiagCount → List Byte → Word) {c : Nat} {buffer : List Byte} {s : State}
    (h : ConvertReady c buffer.length s) :
    processBuffer consumer c buffer s =
      some (answerAll consumer (procBody c buffer.length (loadRaw buffer s)).seqLen
        (procBody c buffer.length (loadRaw buffer s))) := by
  have hp : exec (.proc c buffer.length) (loadRaw buffer s)
      = .next (procBody c buffer.length (loadRaw buffer s)) :=
    congrArg Host.Outcome.next (checked_pass (convertChecks_pass (convertReady_loadRaw buffer h)))
  simp only [processBuffer, hp]

end Sys2Proof.Machine
end

