-- ==== Sys2Proof/Laws/PerInstr.lean ====
section
/-! SUPPORT. A family of lemmas with one lemma per command: a command's word lies in its row of the opcode table
(spec/30_encoding.md R95). -/

namespace Sys2Proof.Laws

/-- The match of the command's row (R95). -/
def rowMatch : Instr → Nat
  | .lutinit _ => 0x10000000
  | .lutrd _ _ => 0x20000000
  | .ctxnew _ => 0x30000000
  | .ctxfree _ => 0x40000000
  | .conv _ _ => 0x50000000
  | .scan _ => 0x60000000
  | .proc _ _ => 0x70000000
  | .ptest _ _ => 0x80000000
  | .demod _ _ => 0x90000000
  | .icwr _ => 0xA0000000
  | .iclen _ => 0xB0000000
  | .icsort => 0xC0000000
  | .icfind => 0xD0000000

/-- The command's OPC field (R91, R95). -/
def opcode (i : Instr) : Nat := rowMatch i / 2 ^ 28

/-- The word of a well-formed command carries its row's opcode. -/
def TableRow.Statement (i : Instr) : Prop :=
  i.wellFormed = true → bitField (encode i) 31 28 = opcode i

theorem TableRow.lutinit (dbg : Nat) : TableRow.Statement (.lutinit dbg) := by
  intro h
  simp [Instr.wellFormed] at h
  simp [encode, opcode, rowMatch]
  omega

theorem TableRow.lutrd (di dq : Nat) : TableRow.Statement (.lutrd di dq) := by
  intro h
  simp [Instr.wellFormed] at h
  simp [encode, opcode, rowMatch]
  omega

theorem TableRow.ctxnew (c : Nat) : TableRow.Statement (.ctxnew c) := by
  intro h
  simp [Instr.wellFormed] at h
  simp [encode, opcode, rowMatch]
  omega

theorem TableRow.ctxfree (c : Nat) : TableRow.Statement (.ctxfree c) := by
  intro h
  simp [Instr.wellFormed] at h
  simp [encode, opcode, rowMatch]
  omega

theorem TableRow.conv (c n : Nat) : TableRow.Statement (.conv c n) := by
  intro h
  simp [Instr.wellFormed] at h
  simp [encode, opcode, rowMatch]
  omega

theorem TableRow.scan (c : Nat) : TableRow.Statement (.scan c) := by
  intro h
  simp [Instr.wellFormed] at h
  simp [encode, opcode, rowMatch]
  omega

theorem TableRow.proc (c n : Nat) : TableRow.Statement (.proc c n) := by
  intro h
  simp [Instr.wellFormed] at h
  simp [encode, opcode, rowMatch]
  omega

theorem TableRow.ptest (c off : Nat) : TableRow.Statement (.ptest c off) := by
  intro h
  simp [Instr.wellFormed] at h
  simp [encode, opcode, rowMatch]
  omega

theorem TableRow.demod (c off : Nat) : TableRow.Statement (.demod c off) := by
  intro h
  simp [Instr.wellFormed] at h
  simp [encode, opcode, rowMatch]
  omega

theorem TableRow.icwr (idx : Nat) : TableRow.Statement (.icwr idx) := by
  intro h
  simp [Instr.wellFormed] at h
  simp [encode, opcode, rowMatch]
  omega

theorem TableRow.iclen (len : Nat) : TableRow.Statement (.iclen len) := by
  intro h
  simp [Instr.wellFormed] at h
  simp [encode, opcode, rowMatch]
  omega

theorem TableRow.icsort : TableRow.Statement .icsort := by
  intro _
  decide

theorem TableRow.icfind : TableRow.Statement .icfind := by
  intro _
  decide

end Sys2Proof.Laws
end

