-- ==== Sys2Proof/Tests/Slice0.lean ====
section
/-! SUPPORT. Tests of the model on the vectors of spec/95_test_vectors.md, and for every statement of
Certificates/Slice0 that has hypotheses a concrete state and operands that meet them together. -/

namespace Sys2Proof.Tests

open Sys2Proof Sys2Proof.Machine

set_option maxRecDepth 100000

/-! ### Well-formedness and decoding -/

/-- R93, R100: one operand too large for its field, for every check. -/
theorem test_wellFormed_refuses :
    [Instr.lutinit 2, .lutrd 256 0, .lutrd 0 256, .ctxnew 16, .ctxfree 16, .conv 16 0, .conv 0 0x1000000, .scan 16,
     .proc 16 0, .proc 0 0x1000000, .ptest 16 0, .ptest 0 0x1000000, .demod 16 0, .demod 0 0x1000000,
     .icwr 0x1000000, .iclen 0x1000000].map Instr.wellFormed = List.replicate 16 false := by decide

/-- R93, R100: every operand at the greatest value of its field. -/
theorem test_wellFormed_accepts :
    [Instr.lutinit 1, .lutrd 255 255, .ctxnew 15, .ctxfree 15, .conv 15 0xFFFFFF, .scan 15, .proc 15 0xFFFFFF,
     .ptest 15 0xFFFFFF, .demod 15 0xFFFFFF, .icwr 0xFFFFFF, .iclen 0xFFFFFF, .icsort, .icfind].map Instr.wellFormed
      = List.replicate 13 true := by decide

/-- The rows of 95_test_vectors.md's Decoding table that are commands, and R100's words for the rest, written from
R91: [31:28] OPC, [27:24] CTX, [23:0] IMM. -/
theorem test_decode_commands :
    [(0x10000001, Instr.lutinit 1), (0x2000FFFF, .lutrd 255 255), (0x20000101, .lutrd 1 1), (0x31000000, .ctxnew 1),
     (0x40000000, .ctxfree 0), (0x5F123456, .conv 15 0x123456), (0x61000000, .scan 1), (0x700001E2, .proc 0 482),
     (0x8100000F, .ptest 1 15), (0x90000010, .demod 0 16), (0xA0000005, .icwr 5), (0xB0000007, .iclen 7),
     (0xC0000000, .icsort), (0xD0000000, .icfind)].all
      (fun row => decodeTableWord 32 row.1 == some row.2 && (encode row.2).toNat == row.1) = true := by decide

/-- The rows of that table that are ILLEGAL, and one word for each reserved field of R97. -/
theorem test_decode_illegal :
    [0x00000000, 0x10000002, 0x11000000, 0x20010000, 0x21000000, 0x30000001, 0x40800000, 0x61000001, 0xA1000005,
     0xB1000000, 0xC0000001, 0xC1000000, 0xD0000001, 0xDF000000, 0xE0000000, 0xFFFFFFFF].map (decodeTableWord 32)
      = List.replicate 16 none := by decide

/-! ### Small states -/

/-- The state an outcome gives. -/
def after (o : Host.Outcome State Fault Refusal) : State :=
  match o with
  | .next t => t
  | .fault _ => State.reset
  | .refused _ => State.reset

/-- A created context 0 with handle 0xCAFE0001 and an empty carry-over. -/
def slot : Context := { valid := true, handle := 0xCAFE0001, carryLen := 0, carry := [], diagOffset := 0 }

/-- The base state B of 95_test_vectors.md: table initialised, context 0 created. -/
def base : State :=
  { State.reset with
    lut := Mem.ofFn (129 * 129) tableEntry, lutValid := true, arg := 0xCAFE0001, ctxs := [slot, Context.blank] }

/-- The bits of the message 8D4840D6202CC371C32CE0576098. -/
def longMessage : Nat := 0x8D4840D6202CC371C32CE0576098

/-- Sample k of program P2's sequence: the canonical preamble, the message, one trailing L. -/
def sampleP2 (k : Nat) : Sample :=
  if k < 16 then BitVec.ofNat 16 (preambleWithFirst 3600 k)
  else if 240 ≤ k then 360
  else if (longMessage / 2 ^ (111 - (k - 16) / 2) + k) % 2 = 1 then 3600 else 360

/-- P5 after its step 4, on context 0: the P2 sequence is pending. -/
def pending : State :=
  { base with seq := Mem.ofFn 241 sampleP2, seqLen := 241, seqValid := true, result := 241 }

/-- P2 after its step 5: the delivery at index 0 is pending. -/
def delivering : State :=
  { pending with
    msg := #v[0x8D, 0x48, 0x40, 0xD6, 0x20, 0x2C, 0xC3, 0x71, 0xC3, 0x2C, 0xE0, 0x57, 0x60, 0x98], msgLenBits := 112
    engine := some { ctx := 0, i := 0, acc := 0, phase := .waitConsumer } }

/-- The engine of `delivering`. -/
def engine0 : Engine := { ctx := 0, i := 0, acc := 0, phase := .waitConsumer }

/-- Sixteen samples as a pending sequence. -/
def withWindow (l : List Nat) : State :=
  { base with seq := Mem.ofFn 16 (fun k => BitVec.ofNat 16 (l.getD k 0)), seqLen := 16, seqValid := true }

/-- A state whose ICAO list is `l`. -/
def withList (l : List Nat) : State :=
  { State.reset with icao := Mem.ofFn l.length (fun k => BitVec.ofNat 32 (l.getD k 0)), icaoLen := l.length }

/-! ### The commands, one step each -/

/-- R123 example and P1 step 1. -/
theorem test_lutinit : (after (exec (.lutinit 1) State.reset)).statusWord = 0x0000000A := by decide +kernel

/-- V-LUT-1, V-LUT-4. -/
theorem test_lutval : [lutval 10 0, lutval 0 128, lutval 7 24, lutval 1 120, lutval 127 128]
    = [3600, 46080, 9000, 43201, 64913] := by decide +kernel

/-- V-LUT-3. -/
theorem test_lutrd : (after (exec (.lutrd 3 4) base)).result = 1800 := by decide +kernel

/-- V-LUT-3: the range fault. -/
theorem test_lutrd_range : (after (exec (.lutrd 129 0) base)).statusWord = 0x00000902 ∧
    (after (exec (.lutrd 129 0) base)).faultInfo = 0x20008100 := by decide +kernel

/-- R126 example. -/
theorem test_ctxnew : (after (exec (.ctxnew 1) base)).ctxs.map (fun x => (x.valid, x.handle, x.carryLen))
    = [(true, 0xCAFE0001, 0), (true, 0xCAFE0001, 0)] := by decide +kernel

/-- V-F-9. -/
theorem test_ctxnew_in_use : exec (.ctxnew 0) base
    = .next { base with fault := .ctxInUse, faultInfo := 0x30000000 } := rfl

/-- R127 example: the owner's pending sequence goes with it. -/
theorem test_ctxfree : ((after (exec (.ctxfree 0) pending)).ctxs.map (·.valid), (after (exec (.ctxfree 0) pending)).seqValid)
    = ([false, false], false) := by decide +kernel

/-- V-F-7. -/
theorem test_ctxfree_not_created : exec (.ctxfree 1) base
    = .next { base with fault := .ctxNotCreated, faultInfo := 0x41000000 } := rfl

/-- V-CONV-5. -/
theorem test_conv : (after (exec (.conv 0 4) { base with raw := [(0, 137), (1, 127), (2, 128), (3, 127)] })).seq
    = [(0, 3600), (1, 360)] := by decide +kernel

/-- V-CONV-2 and V-CONV-3: the carry-over comes first, an odd byte is dropped. -/
theorem test_conv_carry :
    let s : State := { base with raw := [(0, 0), (1, 0), (2, 7)],
                                 ctxs := [{ slot with carryLen := 2, carry := [(0, 3600), (1, 360)] }] }
    (after (exec (.conv 0 3) s)).seq = [(0, 3600), (1, 360), (2, 64658)] := by decide +kernel

/-- V-SC-1's delivery; STATUS as P2 step 5. -/
theorem test_scan : (after (exec (.scan 0) pending)).msg = delivering.msg ∧
    (after (exec (.scan 0) pending)).statusWord = 0x00000007 := by decide +kernel

/-- V-SC-7: nothing is tested below 241 samples. -/
theorem test_scan_short : (after (exec (.scan 0) { pending with seqLen := 2 })).ctxs.map (fun x => (x.carryLen, x.carry))
    = [(2, [(0, 3600), (1, 360)]), (0, [])] := by decide +kernel

/-- V-SC-1, P2 step 6: the answer 0. -/
theorem test_answer_accept : (after (portAnswer 0 delivering)).ctxs.map (fun x => (x.carry, x.diagOffset))
    = [([(0, 360)], 240), ([], 0)] ∧ (after (portAnswer 0 delivering)).result = 1 := by decide +kernel

/-- V-SC-2: the answer 1. -/
theorem test_answer_reject : (after (portAnswer 1 delivering)).ctxs.map (fun x => (x.carryLen, x.diagOffset))
    = [(240, 1), (0, 0)] ∧ (after (portAnswer 1 delivering)).result = 0 := by decide +kernel

/-- P3 step 4 in small: PROC of two pairs carries them. -/
theorem test_proc : (after (exec (.proc 0 4) { base with raw := [(0, 137), (1, 127), (2, 128), (3, 127)] })).ctxs.map
    (fun x => (x.carryLen, x.carry)) = [(2, [(0, 3600), (1, 360)]), (0, [])] := by decide +kernel

/-- V-F-5: the context's index is checked first. -/
theorem test_proc_index : exec (.proc 3 2000) State.reset
    = .next { State.reset with fault := .ctxIndex, faultInfo := 0x730007D0 } := rfl

/-- V-PT-1, V-PT-6, V-PT-13 and the 32391 of V-NOISE. -/
theorem test_ptest : [[3600, 360, 3600, 360, 360, 360, 360, 3600, 360, 3600, 360, 360, 360, 360, 360, 360],
      [3600, 360, 3600, 360, 360, 360, 3600, 3600, 360, 3600, 360, 360, 360, 360, 360, 360],
      [3, 0, 1, 0, 0, 0, 0, 1, 0, 1], [32391, 360, 3600, 360, 360, 360, 360, 3600, 360, 3600]].map
    (fun l => (after (exec (.ptest 0 0) (withWindow l))).result) = [0, 3, 8, 8] := by decide +kernel

/-- V-F-13: one sample too few. -/
theorem test_ptest_range : (after (exec (.ptest 0 1) (withWindow []))).faultInfo = 0x80000001 := by decide +kernel

/-- V-DM-1. -/
theorem test_demod : (after (exec (.demod 0 16) pending)).msg = delivering.msg ∧
    (after (exec (.demod 0 16) pending)).result = 112 := by decide +kernel

/-- V-DM-6: a short message, its bytes 7 to 13 zero. -/
theorem test_demod_short :
    (after (exec (.demod 0 0) { pending with seq := Mem.ofFn 224 (fun k => if k < 2 then 0 else if k % 2 = 0 then 6 else 5) })).msg.toList
      = [0x7F, 0xFF, 0xFF, 0xFF, 0xFF, 0xFF, 0xFF, 0, 0, 0, 0, 0, 0, 0] := by decide +kernel

/-- P4 step 1. -/
theorem test_icwr : (after (exec (.icwr 0) { State.reset with arg := 0x004840D6 })).icao = [(0, 0x004840D6)] := by decide

/-- V-IC-16. -/
theorem test_icwr_range : (after (exec (.icwr 16) State.reset)).faultInfo = 0xA0000010 := by decide

/-- V-IC-16: 16 is legal, 17 is not. -/
theorem test_iclen : ((after (exec (.iclen 16) State.reset)).icaoLen, (after (exec (.iclen 17) State.reset)).fault)
    = (16, .range) := by decide

/-- V-IC-1. -/
theorem test_icsort : (after (exec .icsort (withList [0x4840D6, 0x3C6586, 1, 0xABCDEF, 0x3C6586, 0x100000, 0xFFFFFFFF]))).icao
    = [(0, 1), (1, 0x100000), (2, 0x3C6586), (3, 0x3C6586), (4, 0x4840D6), (5, 0xABCDEF), (6, 0xFFFFFFFF)] := by
  decide +kernel

/-- V-IC-16, and R203's corner case n = 1: the one entry, which nothing has written, stays unwritten. -/
theorem test_icsort_empty_and_single : (after (exec .icsort State.reset)).statusWord = 0x00000A00 ∧
    after (exec .icsort { State.reset with icaoLen := 1 }) = { State.reset with icaoLen := 1 } := by decide

/-- V-IC-3, V-IC-7, V-IC-10, V-IC-12 and V-IC-13 on the sorted list of V-IC-1. -/
theorem test_icfind : [0x4840D6, 0x100000, 0x4840D5, 0x200000, 0xFFFFFFFE].map (fun a => (after (exec .icfind
      { withList [1, 0x100000, 0x3C6586, 0x3C6586, 0x4840D6, 0xABCDEF, 0xFFFFFFFF] with arg := a })).result)
    = [1, 1, 0, 0, 0] := by decide +kernel

/-- V-IC-15: a list that is not ascending. -/
theorem test_icfind_unordered : (after (exec .icfind { withList [9, 1, 5, 3, 7] with arg := 3 })).result = 0 := by
  decide +kernel

/-! ### The ports -/

/-- V-F-1 and V-F-18: an illegal word faults, and later writes are ignored. -/
theorem test_illegal_then_ignored :
    (after (step (after (step { State.reset with inputs := [.issue 0xE0000000, .writeArg 7] })))).faultInfo = 0xE0000000 ∧
    (after (step (after (step { State.reset with inputs := [.issue 0xE0000000, .writeArg 7] })))).arg = 0 := by decide

/-- V-F-14. -/
theorem test_writeRaw_range : (after (step { State.reset with inputs := [.writeRaw 1024 0] })).faultInfo = 0x00000400 := by
  decide

/-- V-F-17: an Issue while a delivery is pending. -/
theorem test_overrun : (after (step { delivering with inputs := [.issue 0x20000000] })).fault = .overrun ∧
    (after (step { delivering with inputs := [.issue 0x20000000] })).faultInfo = 0x20000000 ∧
    (after (step { delivering with inputs := [.issue 0x20000000] })).busy = false := ⟨rfl, rfl, rfl⟩

/-- P1 step 4. -/
theorem test_read_lut : hostRead base 0x00020082 = 509 := by decide +kernel

/-- P2 step 10, while the delivery is pending (R70). -/
theorem test_read_msg : hostRead delivering 0x00000010 = 0x8D := by decide +kernel

/-- P1 step 8. -/
theorem test_reset : (after (step { base with fault := .range, inputs := [.reset] })).statusWord = 0 := by decide +kernel

/-- R64, R90: the word of the host's Issue is what the next step runs. -/
theorem test_withFetchWord : step (State.reset.withFetchWord 32 0xB0000007)
    = .next { State.reset with icaoLen := 7, tick := 1 } := rfl

/-! ### States that meet the statements' hypotheses -/

/-- Every context of `base` (and of a state with its slots) is in order. -/
theorem contexts_ok_base (s : State) (h : s.ctxs = base.ctxs) (c : Nat) : (s.ctx c).Ok := by
  have hc : s.ctx c = base.ctx c := ctx_congr h c
  rw [hc]
  match c with
  | 0 => exact ⟨by decide, by decide, by decide, by decide⟩
  | 1 => exact ⟨by decide, by decide, by decide, by decide⟩
  | c + 2 => exact ⟨Nat.zero_le _, rfl, rfl, fun _ => ⟨rfl, rfl, rfl⟩⟩

/-- `delivering`, whose delivery is pending, satisfies the invariant. -/
theorem inv_delivering : delivering.Inv where
  contexts_legal := by decide
  raw_legal := by decide
  icao_legal := by decide
  lut_wf := ⟨wf_ofFn _ _, within_ofFn _ (Nat.le_refl _)⟩
  seq_wf := ⟨wf_ofFn _ _, within_ofFn _ (by decide)⟩
  raw_wf := by decide
  icao_wf := by decide
  contexts_ok := contexts_ok_base _ rfl
  seqLen_le := by decide
  seqCtx_lt := by decide
  seq_owned := fun _ => by decide
  icaoLen_le := by decide
  msgLen_legal := by decide
  fault_idle := fun h => absurd rfl h
  info_zero := fun _ => rfl
  table_values := by
    intro _ i q hi hq
    have h1 : lutIndex i q < 129 * 129 := by simp only [lutIndex, Config.lutDim]; omega
    have h2 : (129 * i + q) / 129 = i := by omega
    have h3 : (129 * i + q) % 129 = q := by omega
    show (Mem.ofFn (129 * 129) tableEntry).find (lutIndex i q) = _
    rw [find_ofFn, if_pos h1]
    simp only [tableEntry, lutIndex, h2, h3]
  running_ok := by
    intro e he
    cases he
    exact ⟨by decide, by decide, by decide, by decide, by decide⟩

theorem witness_DecodeOfEncodeIsTheCommand : (Instr.conv 15 0xFFFFFF).wellFormed = true := by decide

theorem witness_EncodeOfDecodeIsTheWord : decode 0x5F123456 = .ok (.conv 15 0x123456) := by decide

theorem witness_ReservedOpcodeIsIllegal :
    ReadyFor (.issue 0) [] { State.reset with inputs := [.issue 0] } ∧ bitField 0 31 28 = 0x0 ∧
    ReadyFor (.issue 0xE0000000) [] { State.reset with inputs := [.issue 0xE0000000] } ∧
    bitField 0xE0000000 31 28 = 0xE ∧
    ReadyFor (.issue 0xFFFFFFFF) [] { State.reset with inputs := [.issue 0xFFFFFFFF] } ∧
    bitField 0xFFFFFFFF 31 28 = 0xF :=
  ⟨⟨rfl, rfl, rfl⟩, by decide, ⟨rfl, rfl, rfl⟩, by decide, ⟨rfl, rfl, rfl⟩, by decide⟩

theorem witness_ReservedFieldIsIllegal :
    ReadyFor (.issue 0x10000002) [] { State.reset with inputs := [.issue 0x10000002] } ∧
    bitField 0x10000002 31 28 = bitField (opcodeRow (.lutinit 0)).1 31 28 ∧
    0x10000002 &&& (opcodeRow (.lutinit 0)).2 ≠ (opcodeRow (.lutinit 0)).1 :=
  ⟨⟨rfl, rfl, rfl⟩, by decide, by decide⟩

theorem witness_StepRunsTheDecodedCommand :
    ReadyFor (.issue 0xB0000007) [] { State.reset with inputs := [.issue 0xB0000007] } ∧
    decode 0xB0000007 = .ok (.iclen 7) :=
  ⟨⟨rfl, rfl, rfl⟩, by decide⟩

theorem witness_BlockWithoutInputKeepsItsState :
    (State.reset.inputs = [] ∧ State.reset.engine = none) ∧
    (delivering.inputs = [] ∧ delivering.waiting.isSome = true) := ⟨⟨rfl, rfl⟩, rfl, rfl⟩

/-- One state for each operation the clauses name. -/
theorem witness_FaultStateIsSticky :
    ∀ op ∈ [PortOp.writeRaw 0 1, .writeArg 7, .issue 0x10000000, .read 0, .reset],
      ({ base with inputs := [op], fault := .range } : State).inputs = [op] ∧
      ({ base with inputs := [op], fault := .range } : State).engine = none ∧
      ({ base with inputs := [op], fault := .range } : State).fault ≠ .noFault :=
  fun _ _ => ⟨rfl, rfl, fun h => nomatch h⟩

/-- The last index of RAW and the first one outside. -/
theorem witness_WriteRawWritesOneByte :
    ReadyFor (.writeRaw 1023 5) [] { State.reset with inputs := [.writeRaw 1023 5] } ∧
    (1023 : BitVec 24).toNat < State.reset.maxRawBytes ∧
    ReadyFor (.writeRaw 1024 5) [] { State.reset with inputs := [.writeRaw 1024 5] } ∧
    State.reset.maxRawBytes ≤ (1024 : BitVec 24).toNat :=
  ⟨⟨rfl, rfl, rfl⟩, by decide, ⟨rfl, rfl, rfl⟩, by decide⟩

theorem witness_WriteArgWritesArg :
    (({ base with inputs := [.writeArg 7], fault := .range } : State).engine = none ∧
      ({ base with inputs := [.writeArg 7], fault := .range } : State).fault ≠ .noFault) ∧
    (({ delivering with inputs := [.writeArg 7] } : State).waiting.isSome = true ∧
      ({ delivering with inputs := [.writeArg 7] } : State).fault = .noFault ∧
      ({ delivering with inputs := [.writeArg 7] } : State).busy = true) ∧
    (({ base with inputs := [.writeArg 7] } : State).fault = .noFault ∧
      ({ base with inputs := [.writeArg 7] } : State).busy = false) :=
  ⟨⟨rfl, by decide⟩, ⟨rfl, rfl, rfl⟩, rfl, rfl⟩

/-- One state for each of the three host writes. -/
theorem witness_HostWriteWhileBusyIsOverrun :
    ∀ op ∈ [PortOp.writeRaw 0 0, .writeArg 5, .issue 0x20000000],
      WaitingFor engine0 op [] { delivering with inputs := [op] } ∧
      ({ delivering with inputs := [op] } : State).fault = .noFault :=
  fun _ _ => ⟨⟨rfl, rfl, rfl⟩, rfl⟩

/-- Idle, waiting for the consumer, and faulted. -/
theorem witness_ResetLeavesTheResetState :
    (({ base with inputs := [.reset] } : State).inputs = [.reset] ∧
      ({ base with inputs := [.reset] } : State).engine = none) ∧
    ({ delivering with inputs := [.reset] } : State).waiting.isSome = true ∧
    ({ base with inputs := [.reset], fault := .range } : State).engine = none := ⟨⟨rfl, rfl⟩, rfl, rfl⟩

theorem witness_ReadsChangeNothingAndAgree :
    ({ base with inputs := [.read 0, .read 0] } : State).inputs = [.read 0, .read 0] ∧
    ({ base with inputs := [.read 0, .read 0] } : State).engine = none ∧
    ({ delivering with inputs := [.read 0, .read 0] } : State).waiting.isSome = true := ⟨rfl, rfl, rfl⟩

/-- A context with a full carry-over, a written list entry at the last index, an initialised table, a sequence. -/
theorem witness_ReadMapOfTheIdleBlock :
    let s : State := { pending with ctxs := [slot, { slot with carryLen := 240 }], icao := [(15, 9)] }
    s.busy = false ∧ s.numContexts ≤ 16 ∧ 1 < s.numContexts ∧ 239 < (s.ctx 1).carryLen ∧ s.lutValid = true ∧
    240 < s.seqLen ∧ 15 < s.icaoCap ∧ s.icao.find 15 = some 9 := by
  refine ⟨rfl, ?_, ?_, ?_, rfl, ?_, ?_, rfl⟩ <;> decide

theorem witness_StableReadsWhileDeliveryPending :
    delivering.waiting.isSome = true ∧ ∃ d, delivering.pendingDelivery = some d ∧ 13 < d.bytes.length :=
  ⟨rfl, _, rfl, by decide⟩

theorem witness_StatusWordFields : ({ base with seqCtx := 15 } : State).seqCtx < 16 := by decide

theorem witness_AnswerWithoutDeliveryStops :
    ({ base with inputs := [.answer 0] } : State).inputs = [.answer 0] ∧
    ({ base with inputs := [.answer 0] } : State).engine = none := ⟨rfl, rfl⟩

theorem witness_CommandFaultsArePrecise : base.fault = .noFault ∧ base.engine = none ∧
    ∃ t, exec (.ctxfree 1) base = .next t ∧ t.fault ≠ .noFault := ⟨rfl, rfl, _, rfl, by decide⟩

/-- One state for each check: contexts at NUM_CONTEXTS, no table, no context, a buffer one byte too long, a pending
sequence with a buffer that just fits. -/
theorem witness_CheckOrderOfConversions :
    State.reset.numContexts ≤ 2 ∧ (1 < State.reset.numContexts ∧ State.reset.lutValid = false) ∧
    (1 < base.numContexts ∧ base.lutValid = true ∧ (base.ctx 1).valid = false) ∧
    (0 < base.numContexts ∧ (base.ctx 0).valid = true ∧ base.maxRawBytes < 1025) ∧
    (0 < pending.numContexts ∧ pending.lutValid = true ∧ (pending.ctx 0).valid = true ∧ 1024 ≤ pending.maxRawBytes ∧
      pending.seqValid = true) := by
  refine ⟨?_, ⟨?_, rfl⟩, ⟨?_, rfl, rfl⟩, ⟨?_, rfl, ?_⟩, ?_, rfl, rfl, ?_, rfl⟩ <;> decide

theorem witness_CheckOrderOfSequenceCommands :
    base.numContexts ≤ 2 ∧ (1 < base.numContexts ∧ (base.ctx 1).valid = false) ∧
    (0 < base.numContexts ∧ (base.ctx 0).valid = true ∧ base.seqValid = false) ∧
    (0 < base.numContexts ∧ (pending.ctx 0).valid = true ∧ ({ pending with seqCtx := 1 } : State).seqCtx ≠ 0) ∧
    (SequenceReady 0 pending ∧ pending.seqLen < 226 + 16 ∧ pending.seqLen < 18 + 224) := by
  refine ⟨?_, ⟨?_, rfl⟩, ⟨?_, rfl, rfl⟩, ⟨?_, rfl, ?_⟩, ⟨?_, rfl, rfl, rfl⟩, ?_, ?_⟩ <;> decide

theorem witness_CheckOrderOfTheOtherCommands :
    State.reset.lutValid = false ∧ base.lutValid = true ∧ base.numContexts ≤ 2 ∧
    (0 < base.numContexts ∧ (base.ctx 0).valid = true) ∧ (1 < base.numContexts ∧ (base.ctx 1).valid = false) ∧
    base.icaoCap ≤ 16 ∧ base.icaoCap < 17 ∧ base.icaoLen = 0 := by
  refine ⟨rfl, rfl, ?_, ⟨?_, rfl⟩, ⟨?_, rfl⟩, ?_, ?_, rfl⟩ <;> decide

theorem witness_LutvalIsTheRoundedRoot : 128 ≤ 128 ∧ 120 ≤ 128 := by decide

theorem witness_LutvalProperties : 127 ≤ 128 ∧ 128 ≤ 128 := by decide

theorem witness_LutinitWritesTheTable : 1 ≤ 1 ∧ 0 ≤ 1 ∧ 128 ≤ 128 := by decide

/-- Both ends of each range. -/
theorem witness_NoiseCheckThresholds :
    360 ≤ 360 ∧ (361 ≤ 361 ∧ 361 ≤ 32390) ∧ (361 ≤ 32390 ∧ 32390 ≤ 32390) ∧ (32397 ≤ 32397 ∧ 32397 ≤ 65535) ∧
    (32397 ≤ 65535 ∧ 65535 ≤ 65535) := by decide

theorem witness_LutrdReadsOneEntry : base.lutValid = true ∧ 128 ≤ 128 := ⟨rfl, Nat.le_refl _⟩

theorem witness_CtxnewCreatesTheContext : 1 < base.numContexts ∧ (base.ctx 1).valid = false := ⟨by decide, rfl⟩

/-- The owner of the pending sequence, and another context. -/
theorem witness_CtxfreeReleasesTheContext :
    (0 < pending.numContexts ∧ (pending.ctx 0).valid = true ∧ pending.seqCtx = 0) ∧
    (0 < ({ pending with seqCtx := 1 } : State).numContexts ∧ (pending.ctx 0).valid = true ∧
      ({ pending with seqCtx := 1 } : State).seqCtx ≠ 0) := by
  refine ⟨⟨?_, rfl, rfl⟩, ?_, rfl, ?_⟩ <;> decide

theorem witness_ContextsAreOwned : (∃ t, exec (.ctxnew 1) base = .next t) ∧ ¬ mayWriteContext (.ctxnew 1) 0 :=
  ⟨⟨_, rfl⟩, by simp [mayWriteContext]⟩

theorem witness_PairMagnitudeIsTheTableValue : delivering.Inv ∧ delivering.lutValid = true := ⟨inv_delivering, rfl⟩

theorem witness_ConvBuildsTheSequence : ConvertReady 0 1024 base := ⟨by decide, rfl, rfl, by decide, rfl⟩

/-- The canonical preamble passes the structural test of R151. -/
theorem witness_VerdictAcceptsExactly : structurallyAccepted (preambleWithFirst 32391) ∧
    2 < preambleWithFirst 32391 0 / ((preambleWithFirst 32391 0 + preambleWithFirst 32391 2
      + preambleWithFirst 32391 7 + preambleWithFirst 32391 9) / 4) := by
  constructor
  · unfold structurallyAccepted preambleWithFirst
    refine ⟨by decide, by decide, ?_, by decide, by decide, by decide, ?_⟩
    · intro k h1 h2
      interval_cases k <;> decide
    · intro k h1 h2
      interval_cases k <;> decide
  · decide

theorem witness_PtestReportsTheVerdict : SequenceReady 0 pending ∧ 225 + 16 ≤ pending.seqLen :=
  ⟨⟨by decide, rfl, rfl, rfl⟩, by decide⟩

theorem witness_DemodDecodesTheMessage : SequenceReady 0 pending ∧ 17 + 224 ≤ pending.seqLen :=
  ⟨⟨by decide, rfl, rfl, rfl⟩, by decide⟩

/-- Two states that differ at the first sample behind the message. -/
theorem witness_DemodReadsOnlyItsSamples :
    let s : State := { base with seq := Mem.ofFn 113 (fun _ => 5) }
    let t : State := { base with seq := Mem.ofFn 112 (fun _ => 5) }
    demodBits s 0 = 56 ∧ ∀ k, 0 ≤ k → k < 0 + 2 * demodBits s 0 → t.seqAt k = s.seqAt k := by
  intro s t
  have hb : demodBits s 0 = 56 := by decide +kernel
  refine ⟨hb, fun k _ hk => ?_⟩
  rw [hb] at hk
  rw [seqAt_ofFn (s := t) rfl (by omega), seqAt_ofFn (s := s) rfl (by omega)]

theorem witness_ScanDeliversTheFirstAcceptedWindow :
    SequenceReady 0 pending ∧ 0 + 240 < pending.seqLen ∧ verdict (pending.window 0) = 0 ∧
    ∀ k, k < 0 → verdict (pending.window k) ≠ 0 :=
  ⟨⟨by decide, rfl, rfl, rfl⟩, by decide, by decide +kernel, fun k h => absurd h (Nat.not_lt_zero k)⟩

/-- A sequence at the bound of R155 and one above it with no preamble. -/
theorem witness_ScanWithoutMatchCarriesTheRest :
    let s : State := { pending with seqLen := 240 }
    let t : State := { pending with seq := Mem.ofFn 241 (fun _ => 5) }
    (SequenceReady 0 s ∧ s.engine = none ∧ ∀ k, k + 240 < s.seqLen → verdict (s.window k) ≠ 0) ∧
    (SequenceReady 0 t ∧ t.engine = none ∧ ∀ k, k + 240 < t.seqLen → verdict (t.window k) ≠ 0) := by
  refine ⟨⟨⟨by decide, rfl, rfl, rfl⟩, rfl, fun k hk => ?_⟩, ⟨by decide, rfl, rfl, rfl⟩, rfl, fun k hk => ?_⟩
  · exact absurd hk (by show ¬ k + 240 < 240; omega)
  · have hk : k + 240 < 241 := hk
    obtain rfl : k = 0 := by omega
    decide +kernel

/-- A second preamble directly behind the first index (a rejected delivery). -/
theorem witness_AnswerReachesTheNextDelivery :
    let s : State := { delivering with
      inputs := [.answer 1], seqLen := 242
      seq := Mem.ofFn 242 (fun k => if k = 0 then 0 else BitVec.ofNat 16 (preambleWithFirst 3600 (k - 1))) }
    WaitingFor engine0 (.answer 1) [] s ∧ 1 + 240 < s.seqLen ∧ verdict (s.window 1) = 0 ∧
    (1 : Nat) = (if (1 : Word) = 0 then engine0.i + 16 + 2 * s.msgLenBits else engine0.i + 1) ∧
    ∀ k, 1 ≤ k → k < 1 → verdict (s.window k) ≠ 0 := by
  refine ⟨⟨rfl, rfl, rfl⟩, by decide, by decide +kernel, by decide, fun k h1 h2 => ?_⟩
  omega

/-- Both answers to P2's delivery. -/
theorem witness_AnswerEndsTheScan :
    ∀ status ∈ [(0 : Word), 1], ∃ i,
      WaitingFor engine0 (.answer status) [] { delivering with inputs := [.answer status] } ∧
      engine0.ctx < delivering.numContexts ∧
      i = (if status = 0 then engine0.i + 16 + 2 * delivering.msgLenBits else engine0.i + 1) ∧
      ∀ k, i ≤ k → k + 240 < delivering.seqLen → verdict (delivering.window k) ≠ 0 := by
  intro status _
  refine ⟨_, ⟨rfl, rfl, rfl⟩, by decide, rfl, fun k h1 h2 => ?_⟩
  have h2 : k + 240 < 241 := h2
  have h3 : 1 ≤ (if status = 0 then engine0.i + 16 + 2 * delivering.msgLenBits else engine0.i + 1) := by
    split <;> omega
  omega

theorem witness_ProcIsConvThenScan : ConvertReady 0 1024 base := ⟨by decide, rfl, rfl, by decide, rfl⟩

/-- One byte behind a full carry-over. -/
theorem witness_ProcOfAShortBufferKeepsTheCarry :
    let s : State := { base with ctxs := [{ slot with carryLen := 240 }] }
    ConvertReady 0 1 s ∧ s.engine = none ∧ 1 < 2 ∧ (s.ctx 0).carryLen ≤ 240 :=
  ⟨⟨by decide, rfl, rfl, by decide, rfl⟩, rfl, by decide, by decide⟩

/-- Two samples inside, one more listed outside. -/
theorem witness_ScanReadsInsideTheSequence :
    let s : State := { delivering with inputs := [.answer 0], seqLen := 2, seq := [(0, 1), (1, 2)] }
    let m : Mem 16 := [(0, 1), (1, 2), (2, 9)]
    (∀ k, k < s.seqLen → ({ s with seq := m } : State).seqAt k = s.seqAt k) ∧
    (∃ t, exec (.scan 0) s = .next t) ∧ WaitingFor engine0 (.answer 0) [] s ∧ ∃ t, step s = .next t := by
  refine ⟨fun k hk => ?_, ⟨_, rfl⟩, ⟨rfl, rfl, rfl⟩, ⟨_, rfl⟩⟩
  have hk : k < 2 := hk
  interval_cases k <;> rfl

theorem witness_ScanEndsWhenEveryDeliveryIsAnswered :
    let s : State := { delivering with inputs := [.answer 0] }
    s.engine = some engine0 ∧ engine0.phase = .waitConsumer ∧ engine0.i + 240 < s.seqLen ∧
    s.inputs = [(0 : Word)].map PortOp.answer ++ [] ∧ s.seqLen - 240 - engine0.i ≤ [(0 : Word)].length :=
  ⟨rfl, rfl, by decide, rfl, by decide⟩

/-- 482 bytes in three buffers, the last of odd length, from an empty carry-over and from a full one. -/
theorem witness_CarryOverRoundTrip :
    let buffers : List (List Byte) := [List.replicate 200 0, List.replicate 1 0 ++ [7], List.replicate 281 5]
    buffers ≠ [] ∧ (∀ b ∈ buffers.dropLast, b.length % 2 = 0) ∧ ConvertReady 0 buffers.flatten.length base ∧
    ConvertReady 0 buffers.flatten.length { base with ctxs := [{ slot with carryLen := 240 }] } :=
  ⟨by decide, by decide, ⟨by decide, rfl, rfl, by decide, rfl⟩, ⟨by decide, rfl, rfl, by decide, rfl⟩⟩

theorem witness_IcwrWritesOneEntry : 15 < State.reset.icaoCap := by decide

theorem witness_IclenSetsTheLength : 16 ≤ State.reset.icaoCap := by decide

/-- A list out of order, and an ascending one with a duplicate. -/
theorem witness_IcsortSortsTheList : (withList [3, 2, 1]).icaoLen ≠ 0 ∧
    (withList [1, 5, 5]).icaoLen ≠ 0 ∧ ascending ((withList [1, 5, 5]).icaoList 3) := by
  have h : (withList [1, 5, 5]).icaoList 3 = [1, 5, 5] := by decide
  rw [h]
  refine ⟨by decide, by decide, ?_⟩
  unfold ascending
  decide

theorem witness_IcfindWritesZeroOrOne : (withList [9, 1, 5, 3, 7]).icaoLen ≠ 0 := by decide

/-- An ascending list with a duplicate, with an address that is in it and one that is not. -/
theorem witness_IcfindIsMembershipOnAscendingLists :
    (withList [1, 5, 5]).icaoLen ≠ 0 ∧ ascending ((withList [1, 5, 5]).icaoList 3) ∧
    (5 : Word) ∈ (withList [1, 5, 5]).icaoList 3 ∧ (4 : Word) ∉ (withList [1, 5, 5]).icaoList 3 := by
  have h : (withList [1, 5, 5]).icaoList 3 = [1, 5, 5] := by decide
  rw [h]
  refine ⟨by decide, ?_, by decide, by decide⟩
  unfold ascending
  decide

theorem witness_SortThenSearchIsConsistent : (withList [3, 2, 1]).icaoLen ≠ 0 ∧
    ({ withList [3, 2, 1] with arg := 2 } : State).arg ∈ (withList [3, 2, 1]).icaoList 3 := ⟨by decide, by decide⟩

theorem witness_EachSpaceHasItsWriters : ∃ t, exec .icsort (withList [3, 2, 1]) = .next t := ⟨_, rfl⟩

/-- A SCAN that is seen busy. -/
theorem witness_OnlyScanAndProcAreSeenBusy :
    let s : State := { pending with inputs := [.issue 0x60000000] }
    s.engine = none ∧ (after (step s)).busy = true ∧ ∃ t, step s = .next t := by
  refine ⟨rfl, by decide +kernel, ?_⟩
  exact ⟨_, rfl⟩

theorem witness_ParametersNeverChange : ∃ t, step { base with inputs := [.reset] } = .next t := ⟨_, rfl⟩

theorem witness_CarryLenStaysWithinCapacity :
    (∀ c, (delivering.ctx c).carryLen ≤ 240) ∧ ∃ t, step { delivering with inputs := [.answer 0] } = .next t :=
  ⟨fun c => (inv_delivering.contexts_ok c).carryLen_le, _, rfl⟩

/-- The least and the greatest legal parameters. -/
theorem witness_ResetSatisfiesTheInvariant :
    (1 ≤ 1 ∧ 1 ≤ 16 ∧ 2 ≤ 2 ∧ 2 < 2 ^ 24 ∧ 1 ≤ 1 ∧ 1 < 2 ^ 24) ∧
    (1 ≤ 16 ∧ 16 ≤ 16 ∧ 2 ≤ 2 ^ 24 - 1 ∧ 2 ^ 24 - 1 < 2 ^ 24) := by decide

theorem witness_EveryStepKeepsTheInvariant : delivering.Inv ∧ ∃ t, step delivering = .next t :=
  ⟨inv_delivering, _, rfl⟩

theorem witness_RunsEndInExactlyOneWay : delivering.Inv := inv_delivering

end Sys2Proof.Tests
end

section
/-! SUPPORT. One inversion for the commands, the port operations and the step: every later proof splits on these cases
and opens none of `exec`, `hostWrite`, `perform` or `blockStep` again. -/

namespace Sys2Proof.Machine

variable {s t : State}

/-! ### Commands: checks, then a body -/

/-- The checks of a command, in the order of R233. -/
def commandChecks (i : Instr) (s : State) : List (Bool × FaultCode) :=
  match i with
  | .lutinit _ => []
  | .lutrd di dq => [(!s.lutValid, .lutNotInit), (decide (di > 128 ∨ dq > 128), .range)]
  | .ctxnew c => [(decide (c ≥ s.numContexts), .ctxIndex), ((s.ctx c).valid, .ctxInUse)]
  | .ctxfree c => [(decide (c ≥ s.numContexts), .ctxIndex), (!(s.ctx c).valid, .ctxNotCreated)]
  | .conv c n => convertChecks c n s
  | .scan c => sequenceChecks c s
  | .proc c n => convertChecks c n s
  | .ptest c off => sequenceChecks c s ++ [(decide (off + 16 > s.seqLen), .range)]
  | .demod c off => sequenceChecks c s ++ [(decide (off + Config.longSamples > s.seqLen), .range)]
  | .icwr idx => [(decide (idx ≥ s.icaoCap), .range)]
  | .iclen len => [(decide (len > s.icaoCap), .range)]
  | .icsort => [(decide (s.icaoLen = 0), .emptyList)]
  | .icfind => [(decide (s.icaoLen = 0), .emptyList)]

/-- What a command does once its checks have passed (R232). -/
def commandBody (i : Instr) (s : State) : State :=
  match i with
  | .lutinit dbg => lutinitBody dbg s
  | .lutrd di dq => lutrdBody di dq s
  | .ctxnew c => ctxnewBody c s
  | .ctxfree c => ctxfreeBody c s
  | .conv c n => convertBody c n s
  | .scan c => scanBody c s
  | .proc c n => procBody c n s
  | .ptest _ off => ptestBody off s
  | .demod _ off => demodBody off s
  | .icwr idx => icwrBody idx s
  | .iclen len => iclenBody len s
  | .icsort => icsortBody s
  | .icfind => icfindBody s

/-- Every command is its checks followed by its body, a failing check answering the command's word. -/
theorem exec_eq_checked (i : Instr) (s : State) :
    exec i s = .next (checked (encode i) (commandChecks i s) (commandBody i) s) := by
  cases i <;> rfl

/-- A fault that a list of checks raises is one of the list's. -/
theorem mem_of_firstFault {checks : List (Bool × FaultCode)} {f : FaultCode} (h : firstFault checks = some f) :
    ∃ b, (b, f) ∈ checks := by
  induction checks with
  | nil => simp at h
  | cons check rest ih =>
    obtain ⟨b, g⟩ := check
    cases b with
    | true =>
      obtain rfl : g = f := by simpa using h
      exact ⟨true, List.mem_cons_self⟩
    | false =>
      obtain ⟨b, hb⟩ := ih (by simpa using h)
      exact ⟨b, List.mem_cons_of_mem _ hb⟩

/-- No check of a command carries the code 0x00, which says that no fault has occurred (R231). -/
theorem noFault_notMem_commandChecks (i : Instr) (s : State) (b : Bool) : (b, .noFault) ∉ commandChecks i s := by
  cases i <;> simp [commandChecks, convertChecks, sequenceChecks]

/-- Everything a command can do: take a real fault with nothing else written, or run its body on a state that passed its
checks. -/
theorem exec_cases {i : Instr} (h : exec i s = .next t) :
    (∃ f, f ≠ .noFault ∧ t = raiseFault f (encode i) s) ∨
    (firstFault (commandChecks i s) = none ∧ t = commandBody i s) := by
  rw [exec_eq_checked, Host.Outcome.next.injEq] at h
  obtain ⟨f, hf, hc⟩ | ⟨hpass, hc⟩ := checked_cases (encode i) (commandChecks i s) (commandBody i) s
  · refine .inl ⟨f, ?_, h.symm.trans hc⟩
    rintro rfl
    obtain ⟨b, hb⟩ := mem_of_firstFault hf
    exact noFault_notMem_commandChecks i s b hb
  · exact .inr ⟨hpass, h.symm.trans hc⟩

theorem firstFault_convertChecks_eq_none (c n : Nat) (s : State) :
    firstFault (convertChecks c n s) = none ↔ ConvertReady c n s := by
  refine ⟨fun h => ?_, convertChecks_pass⟩
  obtain ⟨h1, h2, h3, h4, h5⟩ : c < s.numContexts ∧ s.lutValid = true ∧ (s.ctx c).valid = true ∧
      n ≤ s.maxRawBytes ∧ s.seqValid = false := by
    simpa [convertChecks] using (firstFault_eq_none_iff _).1 h
  exact ⟨h1, h2, h3, h4, h5⟩

theorem firstFault_sequenceChecks_eq_none (c : Nat) (s : State) :
    firstFault (sequenceChecks c s) = none ↔ SequenceReady c s := by
  refine ⟨fun h => ?_, fun h => by simpa using sequenceChecks_pass h []⟩
  obtain ⟨h1, h2, h3, h4⟩ : c < s.numContexts ∧ (s.ctx c).valid = true ∧ s.seqValid = true ∧ s.seqCtx = c := by
    simpa [sequenceChecks] using (firstFault_eq_none_iff _).1 h
  exact ⟨h1, h2, h3, h4⟩

/-! ### Port operations -/

/-- FAULT_INFO of the overrun a host write raises: the command word of an Issue, 0 of WriteRaw and WriteArg (R236); none
for an operation that is no host write. -/
def overrunInfo : PortOp → Option Word
  | .writeRaw _ _ => some 0
  | .writeArg _ => some 0
  | .issue w => some w
  | .read _ => none
  | .reset => none
  | .answer _ => none

/-- What one port operation makes of the block, case by case (R64 to R67, R158, R232, R235, R236, R260). -/
inductive Performs (s : State) : PortOp → State → Prop where
  /-- A host write in the fault state is ignored (R235). -/
  | ignored (op : PortOp) (info : Word) (write : overrunInfo op = some info) (faulted : s.fault ≠ .noFault) :
      Performs s op s
  /-- A host write beside a running command is an overrun (R236). -/
  | overran (op : PortOp) (info : Word) (e : Engine) (write : overrunInfo op = some info)
      (unfaulted : s.fault = .noFault) (running : s.engine = some e) : Performs s op (overrun info e s)
  | rawRange (k : BitVec 24) (b : Byte) (unfaulted : s.fault = .noFault) (idle : s.engine = none)
      (exceeds : s.maxRawBytes ≤ k.toNat) : Performs s (.writeRaw k b) (raiseFault .range (k.zeroExtend 32) s)
  | rawWritten (k : BitVec 24) (b : Byte) (unfaulted : s.fault = .noFault) (idle : s.engine = none)
      (fits : k.toNat < s.maxRawBytes) : Performs s (.writeRaw k b) { s with raw := s.raw.write k.toNat b }
  | argWritten (v : Word) (unfaulted : s.fault = .noFault) (idle : s.engine = none) :
      Performs s (.writeArg v) { s with arg := v }
  | illegal (w : Word) (reason : DecodeError) (unfaulted : s.fault = .noFault) (idle : s.engine = none)
      (rejects : decode w = .error reason) : Performs s (.issue w) (raiseFault .illegalCommand w s)
  | command (w : Word) (i : Instr) (t : State) (unfaulted : s.fault = .noFault) (idle : s.engine = none)
      (decodes : decode w = .ok i) (runs : exec i s = .next t) : Performs s (.issue w) t
  | readOut (a : Word) : Performs s (.read a) (portRead a s)
  | reset : Performs s .reset (resetBlock s)
  | answered (status : Word) (e : Engine) (running : s.engine = some e) (waits : e.phase = .waitConsumer) :
      Performs s (.answer status) (answerScan status e s)

/-- The running command that waits is the running command, in its waiting phase (R44). -/
theorem waiting_eq_some {e : Engine} : s.waiting = some e ↔ s.engine = some e ∧ e.phase = .waitConsumer := by
  unfold State.waiting
  cases s.engine with
  | none => simp
  | some e' =>
    by_cases hp : e'.phase = .waitConsumer
    · simp only [hp, if_true, Option.some.injEq]
      exact ⟨fun h => ⟨h, h ▸ hp⟩, And.left⟩
    · simp only [hp, if_false, Option.some.injEq, reduceCtorEq, false_iff]
      rintro ⟨rfl, h⟩
      exact hp h

/-- A host write's outcome is a port operation's when what it performs in the idle, unfaulted block is one. -/
theorem performs_of_hostWrite {op : PortOp} {info : Word} {p : State → Host.Outcome State Fault Refusal}
    (hop : overrunInfo op = some info) (h : hostWrite info p s = .next t)
    (hp : s.fault = .noFault → s.engine = none → p s = .next t → Performs s op t) : Performs s op t := by
  obtain ⟨hf, heq⟩ | ⟨e, hf, he, heq⟩ | ⟨hf, he, heq⟩ := hostWrite_cases info p s <;> rw [heq] at h
  · cases h
    exact .ignored op info hop hf
  · cases h
    exact .overran op info e hop hf he
  · exact hp hf he h

/-- `perform` does nothing but what `Performs` lists. -/
theorem performs_of_perform {op : PortOp} (h : perform op s = .next t) : Performs s op t := by
  cases op with
  | writeRaw k b =>
    refine performs_of_hostWrite rfl h fun hf he hp => ?_
    unfold writeRaw at hp
    split at hp <;> cases hp
    · next hk => exact .rawRange k b hf he hk
    · next hk => exact .rawWritten k b hf he (Nat.lt_of_not_ge hk)
  | writeArg v =>
    refine performs_of_hostWrite rfl h fun hf he hp => ?_
    cases hp
    exact .argWritten v hf he
  | issue w =>
    refine performs_of_hostWrite rfl h fun hf he hp => ?_
    unfold issueWord at hp
    split at hp
    · next reason hd =>
      cases hp
      exact .illegal w reason hf he hd
    · next i hd => exact .command w i t hf he hd hp
  | read a =>
    cases h
    exact .readOut a
  | reset =>
    cases h
    exact .reset
  | answer status =>
    replace h : portAnswer status s = .next t := h
    unfold portAnswer at h
    split at h
    · next e hw =>
      cases h
      obtain ⟨he, hp⟩ := waiting_eq_some.1 hw
      exact .answered status e he hp
    · cases h

/-! ### The step -/

/-- Taking an operation changes the inputs and the tick alone (log entry 13). -/
theorem takeInput_eq (op : PortOp) (rest : List PortOp) (s : State) :
    ∃ n, takeInput op rest s = { s with inputs := rest, tick := n } := by
  cases op <;> exact ⟨_, rfl⟩

/-- Everything a step that answers a next state can be: a scan running on, a block with nothing to do, or a port
operation. -/
theorem step_next_cases (h : step s = .next t) :
    (∃ e, s.engine = some e ∧ t = scanRun e s) ∨ t = s ∨
    (∃ op rest n, s.inputs = op :: rest ∧ Performs { s with inputs := rest, tick := n } op t) := by
  obtain ⟨e, he, _, heq⟩ | ⟨_, _, heq⟩ | ⟨op, rest, _, hi, heq⟩ := step_cases s <;> rw [heq] at h
  · cases h
    exact .inl ⟨e, he, rfl⟩
  · cases h
    exact .inr (.inl rfl)
  · obtain ⟨n, hn⟩ := takeInput_eq op rest s
    exact .inr (.inr ⟨op, rest, n, hi, hn ▸ performs_of_perform h⟩)

@[simp] theorem answered_ctx (status : Word) (bits : Nat) (e : Engine) : (answered status bits e).ctx = e.ctx := by
  unfold answered
  split <;> rfl

/-- ICSORT writes the list memory alone. -/
theorem icsortBody_eq (s : State) : icsortBody s = { s with icao := (icsortBody s).icao } :=
  (sortWalk_frame _ 1 s).1

end Sys2Proof.Machine
end

section
/-! PROOFS. What every step keeps: the parameters (R46), and the invariant of the machine (R47), which reset meets. -/

namespace Sys2Proof.Machine

variable {s t : State}

/-! ### The parameters -/

/-- The two blocks have the same NUM_CONTEXTS, MAX_RAW_BYTES and ICAO_CAP (R46). -/
def SameParameters (s t : State) : Prop :=
  t.numContexts = s.numContexts ∧ t.maxRawBytes = s.maxRawBytes ∧ t.icaoCap = s.icaoCap

theorem SameParameters.trans {u : State} (h : SameParameters s t) (h' : SameParameters t u) : SameParameters s u :=
  ⟨h'.1.trans h.1, h'.2.1.trans h.2.1, h'.2.2.trans h.2.2⟩

theorem sameParameters_raiseFault (f : FaultCode) (w : Word) (s : State) : SameParameters s (raiseFault f w s) :=
  ⟨rfl, rfl, rfl⟩

theorem sameParameters_setCtx (c : Nat) (x : Context) (s : State) : SameParameters s (s.setCtx c x) :=
  ⟨numContexts_setCtx s c x, rfl, rfl⟩

theorem sameParameters_overrun (info : Word) (e : Engine) (s : State) : SameParameters s (overrun info e s) :=
  sameParameters_setCtx e.ctx _ s

theorem sameParameters_resetBlock (s : State) : SameParameters s (resetBlock s) :=
  ⟨List.length_replicate, rfl, rfl⟩

theorem sameParameters_scanRun (e : Engine) (s : State) : SameParameters s (scanRun e s) := by
  obtain ⟨j, _, _, _, _, heq⟩ | ⟨_, heq⟩ := scanRun_cases e s <;> rw [heq]
  · exact ⟨rfl, rfl, rfl⟩
  · exact sameParameters_setCtx e.ctx _ s

theorem sameParameters_icsortBody (s : State) : SameParameters s (icsortBody s) := by
  rw [icsortBody_eq]
  exact ⟨rfl, rfl, rfl⟩

theorem sameParameters_commandBody (i : Instr) (s : State) : SameParameters s (commandBody i s) := by
  cases i with
  | ctxnew c => exact sameParameters_setCtx c _ s
  | ctxfree c => exact sameParameters_setCtx c _ s
  | scan c => exact sameParameters_scanRun _ s
  | proc c n => exact sameParameters_scanRun _ (convertBody c n s)
  | icsort => exact sameParameters_icsortBody s
  | lutinit | lutrd | conv | ptest | demod | icwr | iclen | icfind => exact ⟨rfl, rfl, rfl⟩

theorem sameParameters_of_exec {i : Instr} (h : exec i s = .next t) : SameParameters s t := by
  obtain ⟨f, _, rfl⟩ | ⟨_, rfl⟩ := exec_cases h
  · exact sameParameters_raiseFault f _ s
  · exact sameParameters_commandBody i s

theorem Performs.sameParameters {op : PortOp} (h : Performs s op t) : SameParameters s t := by
  cases h with
  | overran op info e => exact sameParameters_overrun info e s
  | command w i t _ _ _ runs => exact sameParameters_of_exec runs
  | reset => exact sameParameters_resetBlock s
  | answered status e => exact sameParameters_scanRun _ s
  | ignored | rawRange | rawWritten | argWritten | illegal | readOut => exact ⟨rfl, rfl, rfl⟩

/-! ### The invariant: what single updates keep of it -/

/-- Every slot is in order after slot c takes a value in order. -/
theorem contexts_ok_setCtx (h : ∀ d, (s.ctx d).Ok) {c : Nat} {x : Context} (hx : x.Ok) (d : Nat) :
    ((s.setCtx c x).ctx d).Ok := by
  rw [ctx_setCtx]
  split
  · exact hx
  · exact h d

/-- A slot with its fields at 0 and no CARRY element written is in order, created or not. -/
theorem Context.ok_of_empty (valid : Bool) (handle : Word) (h : valid = false → handle = 0) :
    ({ valid := valid, handle := handle, carryLen := 0, carry := [], diagOffset := 0 } : Context).Ok where
  carryLen_le := Nat.zero_le _
  carry_wf := wf_nil
  carry_within := within_nil _
  blank_if_invalid := fun hv => ⟨h hv, rfl, rfl⟩

/-- A created slot is in order when its first n ≤ 240 samples have just been written. -/
theorem Context.ok_of_carry {x : Context} (hv : x.valid = true) {n len : Nat} (f : Nat → Sample) (diag : DiagCount)
    (hn : n ≤ Config.carryCap) (hlen : len ≤ Config.carryCap) :
    ({ x with carry := Mem.ofFn n f, carryLen := len, diagOffset := diag } : Context).Ok where
  carryLen_le := hlen
  carry_wf := wf_ofFn n f
  carry_within := within_ofFn f hn
  blank_if_invalid := fun h => absurd (h.symm.trans hv) Bool.false_ne_true

/-- Of an idle block the invariant asks nothing about a running command. -/
theorem running_ok_of_idle (idle : s.engine = none) (e : Engine) (he : s.engine = some e) : RunningOk s e :=
  absurd (idle.symm.trans he) nofun

/-- The model's own fields are outside the invariant. -/
theorem State.Inv.withEnvironment (h : s.Inv) (inputs : List PortOp) (readOut : Option Word) (tick epoch : Nat) :
    ({ s with inputs := inputs, readOut := readOut, tick := tick, epoch := epoch } : State).Inv :=
  { h with running_ok := fun e he => { h.running_ok e he with } }

/-- A fault that is one: the block is idle after it (R47, R234). -/
theorem State.Inv.raiseFault (h : s.Inv) {f : FaultCode} (hf : f ≠ .noFault) (w : Word) :
    (Machine.raiseFault f w s).Inv :=
  { h with
    fault_idle := fun _ => rfl
    info_zero := fun h0 => absurd h0 hf
    running_ok := nofun }

/-- An idle block keeps the invariant when a slot takes a value in order, created if it owns the pending sequence. -/
theorem State.Inv.setCtx (h : s.Inv) (idle : s.engine = none) {c : Nat} {x : Context} (hx : x.Ok)
    (howner : s.seqValid = true → s.seqCtx = c → x.valid = true) : (s.setCtx c x).Inv :=
  { h with
    contexts_legal := (numContexts_setCtx s c x).symm ▸ h.contexts_legal
    contexts_ok := contexts_ok_setCtx h.contexts_ok hx
    seq_owned := fun hv => by
      obtain ⟨hlt, hvalid⟩ := h.seq_owned hv
      refine ⟨(numContexts_setCtx s c x).symm ▸ hlt, ?_⟩
      show ((s.setCtx c x).ctx s.seqCtx).valid = true
      rw [ctx_setCtx]
      split
      · next hc => exact howner hv hc.1
      · exact hvalid
    running_ok := running_ok_of_idle idle }

/-! ### The invariant: reset, fault entry, the scan -/

/-- Reset meets the invariant for all legal parameters (R48, R261). -/
theorem inv_resetWith {n r k : Nat} (hn : 1 ≤ n ∧ n ≤ 16) (hr : 2 ≤ r ∧ r < 2 ^ 24) (hk : 1 ≤ k ∧ k < 2 ^ 24) :
    (State.resetWith n r k).Inv where
  contexts_legal := (numContexts_resetWith n r k).symm ▸ hn
  raw_legal := hr
  icao_legal := hk
  lut_wf := ⟨wf_nil, within_nil _⟩
  seq_wf := ⟨wf_nil, within_nil _⟩
  raw_wf := ⟨wf_nil, within_nil _⟩
  icao_wf := ⟨wf_nil, within_nil _⟩
  contexts_ok := fun c => (ctx_resetWith n r k c).symm ▸ Context.ok_of_empty false 0 (fun _ => rfl)
  seqLen_le := Nat.zero_le _
  seqCtx_lt := Nat.zero_lt_succ 15
  seq_owned := nofun
  icaoLen_le := Nat.zero_le _
  msgLen_legal := .inl rfl
  fault_idle := fun _ => rfl
  info_zero := fun _ => rfl
  table_values := nofun
  running_ok := nofun

theorem State.Inv.resetBlock (h : s.Inv) : (Machine.resetBlock s).Inv :=
  (inv_resetWith h.contexts_legal h.raw_legal h.icao_legal).withEnvironment s.inputs s.readOut s.tick s.tick

/-- Only an unfaulted block runs a command (R47). -/
theorem State.Inv.fault_of_running (h : s.Inv) {e : Engine} (he : s.engine = some e) : s.fault = .noFault := by
  by_contra hf
  exact absurd ((h.fault_idle hf).symm.trans he) nofun

/-- A running command has its own sequence pending, as at its Issue. -/
theorem RunningOk.sequenceReady {e : Engine} (h : RunningOk s e) : SequenceReady e.ctx s :=
  ⟨h.ctx_lt, h.ctx_valid, h.owns.1, h.owns.2⟩

/-- An overrun: the slot it abandons was created, so the model's draws (log entry 5) leave it in order and the sequence,
if still pending, with a created owner. -/
theorem State.Inv.overrun (h : s.Inv) (info : Word) {e : Engine} (he : s.engine = some e) :
    (Machine.overrun info e s).Inv := by
  have run := h.running_ok e he
  have hlen (k : Fin 3) : 56 * k.val = 0 ∨ 56 * k.val = 56 ∨ 56 * k.val = 112 := by omega
  have hx := Context.ok_of_carry run.ctx_valid (Config.overrunCarry s.tick) (Config.overrunDiag s.tick)
    (Nat.le_refl _) (Nat.le_of_lt_succ (Config.overrunCarryLen s.tick).isLt)
  have hs : ({ Machine.raiseFault .overrun info (abandon e.ctx s) with ctxs := s.ctxs } : State).Inv :=
    { h with
      msgLen_legal := hlen _
      seq_owned := fun _ => run.owns.2.symm ▸ ⟨run.ctx_lt, run.ctx_valid⟩
      fault_idle := fun _ => rfl
      info_zero := nofun
      running_ok := nofun }
  exact hs.setCtx rfl hx (fun _ _ => run.ctx_valid)

theorem demodBits_legal (s : State) (p : Nat) : demodBits s p = 56 ∨ demodBits s p = 112 := by
  unfold demodBits
  split <;> simp

/-- An accepted window: its delivery waits, in order because the window lies below the bound of R155. -/
theorem State.Inv.acceptWindow (h : s.Inv) (unfaulted : s.fault = .noFault) {e : Engine}
    (ready : SequenceReady e.ctx s) (hi : e.i + Config.scanWindow < s.seqLen) : (Machine.acceptWindow e s).Inv :=
  { h with
    msgLen_legal := .inr (demodBits_legal s _)
    fault_idle := fun hf => absurd unfaulted hf
    running_ok := by
      rintro _ ⟨rfl⟩
      exact ⟨ready.index, ready.created, ⟨ready.pending, ready.owner⟩, Nat.le_of_lt (Nat.lt_of_add_right_lt hi),
        fun _ => ⟨hi, demodBits_legal s _⟩⟩ }

/-- The end of a scan: at most 240 samples are left at its index, so they fit the carry-over (R163). -/
theorem State.Inv.endScan (h : s.Inv) {e : Engine} (ready : SequenceReady e.ctx s)
    (hi : s.seqLen ≤ e.i + Config.scanWindow) : (Machine.endScan e s).Inv := by
  have hleft : s.seqLen - e.i ≤ Config.carryCap := Nat.sub_le_iff_le_add'.2 hi
  have hx := Context.ok_of_carry ready.created (fun k => s.seqAt (e.i + k))
    ((s.ctx e.ctx).diagOffset + BitVec.ofNat 64 e.i) hleft hleft
  have hs : ({ s with seqValid := false, result := e.acc, engine := none } : State).Inv :=
    { h with
      seq_owned := nofun
      fault_idle := fun _ => rfl
      running_ok := nofun }
  exact hs.setCtx rfl hx nofun

/-- A running scan keeps the invariant up to its next delivery or its end. -/
theorem State.Inv.scanRun (h : s.Inv) (unfaulted : s.fault = .noFault) {e : Engine}
    (ready : SequenceReady e.ctx s) : (Machine.scanRun e s).Inv := by
  obtain ⟨j, _, hj, _, _, heq⟩ | ⟨_, heq⟩ := scanRun_cases e s <;> rw [heq]
  · exact h.acceptWindow (e := { e with i := j }) unfaulted ready hj
  · refine h.endScan (e := { e with i := max e.i (s.seqLen - Config.scanWindow) }) ready ?_
    show s.seqLen ≤ max e.i (s.seqLen - 240) + 240
    omega

/-! ### The invariant: the commands -/

theorem lutIndex_lt {i q : Nat} (hi : i ≤ 128) (hq : q ≤ 128) : lutIndex i q < Config.lutDim * Config.lutDim := by
  show 129 * i + q < 129 * 129
  omega

/-- The entry LUTINIT writes for the deviations (i, q) is their value (R120, R122). -/
theorem tableEntry_lutIndex (i : Nat) {q : Nat} (hq : q ≤ 128) :
    tableEntry (lutIndex i q) = BitVec.ofNat 16 (lutval i q) := by
  have hdiv : lutIndex i q / Config.lutDim = i := by
    show (129 * i + q) / 129 = i
    omega
  have hmod : lutIndex i q % Config.lutDim = q := by
    show (129 * i + q) % 129 = q
    omega
  rw [tableEntry, hdiv, hmod]

theorem State.Inv.lutinitBody (h : s.Inv) (idle : s.engine = none) (dbg : Nat) : (Machine.lutinitBody dbg s).Inv :=
  { h with
    lut_wf := ⟨wf_ofFn _ _, within_ofFn _ (Nat.le_refl _)⟩
    table_values := fun _ i q hi hq => by
      rw [lutinitBody_lut, find_ofFn, if_pos (lutIndex_lt hi hq), tableEntry_lutIndex i hq]
    running_ok := running_ok_of_idle idle }

/-- CTXNEW: a created slot with nothing carried. -/
theorem State.Inv.ctxnewBody (h : s.Inv) (idle : s.engine = none) (c : Nat) : (Machine.ctxnewBody c s).Inv :=
  h.setCtx idle (Context.ok_of_empty true s.arg nofun) (fun _ _ => rfl)

/-- CTXFREE: a slot that owned the pending sequence takes it along, so what stays pending has another owner (R127). -/
theorem State.Inv.ctxfreeBody (h : s.Inv) (idle : s.engine = none) (c : Nat) : (Machine.ctxfreeBody c s).Inv := by
  have hs : ({ s with seqValid := s.seqValid && decide (s.seqCtx ≠ c) } : State).Inv :=
    { h with
      seq_owned := fun hv => h.seq_owned (Bool.and_eq_true_iff.1 hv).1
      running_ok := running_ok_of_idle idle }
  refine hs.setCtx idle (Context.ok_of_empty false 0 (fun _ => rfl)) fun hv hc => absurd hc ?_
  exact of_decide_eq_true (Bool.and_eq_true_iff.1 hv).2

/-- A conversion: 240 carried samples and one for each pair fit SEQ_CAP (R9, R143). -/
theorem State.Inv.convertBody (h : s.Inv) (idle : s.engine = none) {c n : Nat} (ready : ConvertReady c n s) :
    (Machine.convertBody c n s).Inv := by
  have hlen : convertedLen c n s ≤ s.seqCap :=
    Nat.add_le_add (h.contexts_ok c).carryLen_le (Nat.div_le_div_right ready.fits)
  exact
    { h with
      seq_wf := ⟨wf_ofFn _ _, within_ofFn _ hlen⟩
      seqLen_le := hlen
      seqCtx_lt := Nat.lt_of_lt_of_le ready.index h.contexts_legal.2
      seq_owned := fun _ => ⟨ready.index, ready.created⟩
      running_ok := running_ok_of_idle idle }

/-- After a conversion its sequence is pending: PROC's scan may start (R161). -/
theorem sequenceReady_convertBody {c n : Nat} (ready : ConvertReady c n s) : SequenceReady c (convertBody c n s) :=
  ⟨ready.index, ready.created, rfl, rfl⟩

theorem State.Inv.demodBody (h : s.Inv) (idle : s.engine = none) (off : Nat) : (Machine.demodBody off s).Inv :=
  { h with
    msgLen_legal := .inr (demodBits_legal s off)
    running_ok := running_ok_of_idle idle }

/-- RESULT is outside the invariant. -/
theorem State.Inv.withResult (h : s.Inv) (r : Word) : ({ s with result := r } : State).Inv :=
  { h with running_ok := fun e he => { h.running_ok e he with } }

theorem State.Inv.withIcao (h : s.Inv) {m : Mem 32} (hm : m.wf = true ∧ m.within s.icaoCap = true) :
    ({ s with icao := m } : State).Inv :=
  { h with
    icao_wf := hm
    running_ok := fun e he => { h.running_ok e he with } }

theorem State.Inv.icwrBody (h : s.Inv) {idx : Nat} (hidx : idx < s.icaoCap) : (Machine.icwrBody idx s).Inv :=
  h.withIcao ⟨wf_write idx _ h.icao_wf.1, within_write _ hidx h.icao_wf.2⟩

theorem State.Inv.icsortBody (h : s.Inv) : (Machine.icsortBody s).Inv := by
  obtain ⟨_, _, hwf, hwithin⟩ := sortWalk_frame (s.icaoLen * s.icaoLen) 1 s
  rw [icsortBody_eq]
  exact h.withIcao ⟨hwf h.icao_wf.1, hwithin _ h.icaoLen_le h.icao_wf.2⟩

theorem State.Inv.iclenBody (h : s.Inv) {len : Nat} (hlen : len ≤ s.icaoCap) : (Machine.iclenBody len s).Inv :=
  { h with
    icaoLen_le := hlen
    running_ok := fun e he => { h.running_ok e he with } }

/-- A command whose checks pass keeps the invariant. -/
theorem State.Inv.commandBody (h : s.Inv) (unfaulted : s.fault = .noFault) (idle : s.engine = none) {i : Instr}
    (hpass : firstFault (commandChecks i s) = none) : (Machine.commandBody i s).Inv := by
  cases i with
  | lutinit dbg => exact h.lutinitBody idle dbg
  | ctxnew c => exact h.ctxnewBody idle c
  | ctxfree c => exact h.ctxfreeBody idle c
  | conv c n => exact h.convertBody idle ((firstFault_convertChecks_eq_none c n s).1 hpass)
  | scan c => exact h.scanRun unfaulted ((firstFault_sequenceChecks_eq_none c s).1 hpass)
  | proc c n =>
    have ready := (firstFault_convertChecks_eq_none c n s).1 hpass
    exact (h.convertBody idle ready).scanRun unfaulted (sequenceReady_convertBody ready)
  | demod c off => exact h.demodBody idle off
  | icwr idx => exact h.icwrBody (by simpa [commandChecks] using hpass)
  | iclen len => exact h.iclenBody (by simpa [commandChecks] using hpass)
  | icsort => exact h.icsortBody
  | lutrd | ptest | icfind => exact h.withResult _

theorem State.Inv.exec (h : s.Inv) (unfaulted : s.fault = .noFault) (idle : s.engine = none) {i : Instr}
    (hx : Machine.exec i s = .next t) : t.Inv := by
  obtain ⟨f, hf, rfl⟩ | ⟨hpass, rfl⟩ := exec_cases hx
  · exact h.raiseFault hf _
  · exact h.commandBody unfaulted idle hpass

/-! ### The invariant: port operations -/

theorem State.Inv.withRaw (h : s.Inv) {k : Nat} (b : Byte) (hk : k < s.maxRawBytes) :
    ({ s with raw := s.raw.write k b } : State).Inv :=
  { h with
    raw_wf := ⟨wf_write k b h.raw_wf.1, within_write b hk h.raw_wf.2⟩
    running_ok := fun e he => { h.running_ok e he with } }

theorem State.Inv.withArg (h : s.Inv) (v : Word) : ({ s with arg := v } : State).Inv :=
  { h with running_ok := fun e he => { h.running_ok e he with } }

theorem Performs.inv {op : PortOp} (hp : Performs s op t) (h : s.Inv) : t.Inv := by
  cases hp with
  | ignored => exact h
  | overran op info e _ _ running => exact h.overrun info running
  | rawRange | illegal => exact h.raiseFault (by decide) _
  | rawWritten k b _ _ fits => exact h.withRaw b fits
  | argWritten v => exact h.withArg v
  | command w i t unfaulted idle _ runs => exact h.exec unfaulted idle runs
  | readOut a => exact h.withEnvironment s.inputs _ s.tick s.epoch
  | reset => exact h.resetBlock
  | answered status e running =>
    refine h.scanRun (h.fault_of_running running) ?_
    rw [answered_ctx]
    exact (h.running_ok e running).sequenceReady

end Sys2Proof.Machine

namespace Sys2Proof

open Machine

/-- Settles O58. -/
theorem resetSatisfiesTheInvariant : Obligations.ResetSatisfiesTheInvariant :=
  fun _ _ _ hn hn' hr hr' hk hk' => inv_resetWith ⟨hn, hn'⟩ ⟨hr, hr'⟩ ⟨hk, hk'⟩

/-- Settles O56, by the cases of a step: the context store is only ever replaced by one of its own length. -/
theorem parametersNeverChange : Obligations.ParametersNeverChange := by
  intro s t h
  obtain ⟨e, _, rfl⟩ | rfl | ⟨op, rest, n, _, hp⟩ := step_next_cases h
  · exact sameParameters_scanRun e s
  · exact ⟨rfl, rfl, rfl⟩
  · exact hp.sameParameters

/-- Settles O59, by the cases of a step: a scan that runs on, no operation, or a port operation. -/
theorem everyStepKeepsTheInvariant : Obligations.EveryStepKeepsTheInvariant := by
  intro s t h hstep
  obtain ⟨e, he, rfl⟩ | rfl | ⟨op, rest, n, _, hp⟩ := step_next_cases hstep
  · exact h.scanRun (h.fault_of_running he) (h.running_ok e he).sequenceReady
  · exact h
  · exact hp.inv (h.withEnvironment rest s.readOut n s.epoch)

end Sys2Proof
end

section
/-! PROOFS. STATUS: its fields (R24), the fault codes (R231), and who is ever seen busy (R25). -/

namespace Sys2Proof.Machine

variable {s t : State}

theorem FaultCode.code_lt (f : FaultCode) : f.code < 256 := by
  cases f <;> decide

/-- Numbers packed at the fields of R24 are read back from those fields. -/
theorem bitField_packedStatus {b l v d c f : Nat} (hb : b < 2) (hl : l < 2) (hv : v < 2) (hd : d < 2) (hc : c < 16)
    (hf : f < 256) :
    let w := BitVec.ofNat 32 (b + 2 * l + 4 * v + 8 * d + 16 * c + 256 * f)
    bitField w 0 0 = b ∧ bitField w 1 1 = l ∧ bitField w 2 2 = v ∧ bitField w 3 3 = d ∧ bitField w 7 4 = c ∧
      bitField w 15 8 = f ∧ bitField w 31 16 = 0 := by
  simp only [bitField_ofNat]
  refine ⟨?_, ?_, ?_, ?_, ?_, ?_, ?_⟩ <;> omega

/-- A scan that has run leaves the block idle or with a delivery pending (R76, R274). -/
theorem scanRun_idle_or_pending (e : Engine) (s : State) :
    (scanRun e s).engine = none ∨ (scanRun e s).pendingDelivery.isSome = true := by
  obtain ⟨j, _, _, _, _, heq⟩ | ⟨_, heq⟩ := scanRun_cases e s <;> rw [heq]
  · exact .inr (by simp [State.pendingDelivery, State.waiting])
  · exact .inl (endScan_engine _ _)

/-- Of the commands only SCAN and PROC scan; every other leaves the engine as it is (R25). -/
theorem commandBody_engine (i : Instr) (s : State) :
    (commandBody i s).engine = s.engine ∨
    (((∃ c, i = .scan c) ∨ ∃ c n, i = .proc c n) ∧ ∃ e u, commandBody i s = scanRun e u) := by
  cases i with
  | scan c => exact .inr ⟨.inl ⟨c, rfl⟩, _, s, rfl⟩
  | proc c n => exact .inr ⟨.inr ⟨c, n, rfl⟩, _, convertBody c n s, rfl⟩
  | icsort =>
    show (icsortBody s).engine = s.engine ∨ _
    rw [icsortBody_eq]
    exact .inl rfl
  | lutinit | lutrd | ctxnew | ctxfree | conv | ptest | demod | icwr | iclen | icfind => exact .inl rfl

/-- A command issued to an idle block leaves it idle, or is a SCAN or PROC with a delivery pending. -/
theorem exec_idle_or_pending {i : Instr} (idle : s.engine = none) (h : exec i s = .next t) :
    t.engine = none ∨ (t.pendingDelivery.isSome = true ∧ ((∃ c, i = .scan c) ∨ ∃ c n, i = .proc c n)) := by
  obtain ⟨f, _, rfl⟩ | ⟨_, rfl⟩ := exec_cases h
  · exact .inl rfl
  · obtain he | ⟨hi, e, u, heq⟩ := commandBody_engine i s
    · exact .inl (he.trans idle)
    · rw [heq]
      exact (scanRun_idle_or_pending e u).imp_right fun hp => ⟨hp, hi⟩

/-- A port operation on an idle block leaves it idle, or is the Issue of a SCAN or PROC with a delivery pending. -/
theorem Performs.idle_or_pending {op : PortOp} (h : Performs s op t) (hidle : s.engine = none) :
    t.engine = none ∨ (t.pendingDelivery.isSome = true ∧
      ∃ w i, op = .issue w ∧ decode w = .ok i ∧ ((∃ c, i = .scan c) ∨ ∃ c n, i = .proc c n)) := by
  cases h with
  | command w i t _ idle decodes runs =>
    exact (exec_idle_or_pending idle runs).imp_right fun ⟨hp, hi⟩ => ⟨hp, w, i, rfl, decodes, hi⟩
  | answered status e running => exact absurd (hidle.symm.trans running) nofun
  | ignored | rawWritten | argWritten | readOut => exact .inl hidle
  | overran | rawRange | illegal | reset => exact .inl rfl

theorem busy_eq_false_of_idle (h : s.engine = none) : s.busy = false := by
  simp [State.busy, h]

end Sys2Proof.Machine

namespace Sys2Proof

open Machine

/-- Settles O17: the codes by their definition, the fields because each value fits its own. -/
theorem statusWordFields : Obligations.StatusWordFields := by
  refine ⟨by decide, fun s hs => ?_⟩
  rw [State.statusWord, Nat.mod_eq_of_lt hs]
  exact bitField_packedStatus s.busy.toNat_lt s.lutValid.toNat_lt s.seqValid.toNat_lt (Bool.toNat_lt s.debug) hs
    s.fault.code_lt

/-- Settles O55, by the cases of a step from an idle block. -/
theorem onlyScanAndProcAreSeenBusy : Obligations.OnlyScanAndProcAreSeenBusy := by
  intro s t idle h hbusy
  have hne : t.engine ≠ none := fun he => absurd (hbusy.symm.trans (busy_eq_false_of_idle he)) nofun
  obtain ⟨e, he, _⟩ | rfl | ⟨op, rest, n, hin, hp⟩ := step_next_cases h
  · exact absurd (idle.symm.trans he) nofun
  · exact absurd idle hne
  · obtain he | ⟨hpending, w, i, rfl, hd, hi⟩ := hp.idle_or_pending idle
    · exact absurd he hne
    · exact ⟨hpending, w, rest, i, hin, hd, hi⟩

end Sys2Proof
end

section
/-! PROOFS. The port operations WriteRaw, WriteArg, Read and Answer on the block (spec/20_memory.md R64 to R67). -/

namespace Sys2Proof.Machine

variable {s : State}

/-! ### Which operation a step performs, and when a host write is performed -/

/-- An idle block, or one with a delivery pending, has no scan to run on: its step takes a port operation. -/
theorem waits_of_idle_or_pending (h : s.engine = none ∨ s.waiting.isSome = true) (e : Engine)
    (he : s.engine = some e) : e.phase = .waitConsumer := by
  obtain hnone | hsome := h
  · exact absurd (hnone.symm.trans he) nofun
  · obtain ⟨e', hw⟩ := Option.isSome_iff_exists.1 hsome
    obtain ⟨he', hp⟩ := waiting_eq_some.1 hw
    obtain rfl : e' = e := Option.some.inj (he'.symm.trans he)
    exact hp

theorem step_of_readyFor {op : PortOp} {rest : List PortOp} (h : ReadyFor op rest s) :
    step s = perform op (takeInput op rest s) :=
  step_operation h.next (waits_of_idle_or_pending (.inl h.idle))

theorem hostWrite_of_faulted {info : Word} {p : State → Host.Outcome State Fault Refusal} (h : s.fault ≠ .noFault) :
    hostWrite info p s = .next s := by
  simp [hostWrite, h]

theorem hostWrite_of_running {info : Word} {p : State → Host.Outcome State Fault Refusal} {e : Engine}
    (unfaulted : s.fault = .noFault) (running : s.engine = some e) :
    hostWrite info p s = .next (overrun info e s) := by
  simp [hostWrite, unfaulted, running]

theorem hostWrite_of_idle {info : Word} {p : State → Host.Outcome State Fault Refusal}
    (unfaulted : s.fault = .noFault) (idle : s.engine = none) : hostWrite info p s = p s := by
  simp [hostWrite, unfaulted, idle]

/-! ### What WriteRaw writes -/

theorem writeRaw_of_exceeds {k : BitVec 24} (b : Byte) (h : s.maxRawBytes ≤ k.toNat) :
    writeRaw k b s = .next (raiseFault .range (k.zeroExtend 32) s) :=
  if_pos h

theorem writeRaw_of_fits {k : BitVec 24} (b : Byte) (h : k.toNat < s.maxRawBytes) :
    writeRaw k b s = .next { s with raw := s.raw.write k.toNat b } :=
  if_neg (Nat.not_le.2 h)

/-- RAW[j] of any block whose RAW is that of `s` with byte k written, since the same reset. -/
theorem rawAt_of_raw_write {t : State} {k : Nat} {b : Byte} (hraw : t.raw = s.raw.write k b)
    (hepoch : t.epoch = s.epoch) (j : Nat) : t.rawAt j = if j = k then b else s.rawAt j := by
  simp only [State.rawAt, hraw, hepoch, find_write]
  split <;> rfl

/-- A Read's word depends on neither the operations still to come nor the word last read. -/
theorem hostRead_withEnvironment (s : State) (inputs : List PortOp) (readOut : Option Word) (a : Word) :
    hostRead { s with inputs := inputs, readOut := readOut } a = hostRead s a :=
  rfl

/-- A Read as the next operation, in a block that is idle or has a delivery pending (R67). -/
theorem step_read {a : Word} {rest : List PortOp} (hin : s.inputs = .read a :: rest)
    (hs : s.engine = none ∨ s.waiting.isSome = true) :
    step s = .next { s with inputs := rest, readOut := some (hostRead s a) } := by
  rw [step_operation hin (waits_of_idle_or_pending hs)]
  exact congrArg (fun v => Host.Outcome.next { s with inputs := rest, readOut := some v })
    (hostRead_withEnvironment s rest s.readOut a)

end Sys2Proof.Machine

namespace Sys2Proof

open Machine

/-- Settles O10, by whether the index lies in RAW. -/
theorem writeRawWritesOneByte : Obligations.WriteRawWritesOneByte := by
  intro s k b rest h
  have hstep : step s = writeRaw k b { s with inputs := rest, tick := s.tick + 1 } :=
    (step_of_readyFor h).trans (hostWrite_of_idle h.unfaulted h.idle)
  refine ⟨fun hk => hstep.trans (writeRaw_of_exceeds b hk), fun hk => ?_⟩
  have hread := rawAt_of_raw_write (s := s) (k := k.toNat) (b := b)
    (t := { s with inputs := rest, tick := s.tick + 1, raw := s.raw.write k.toNat b }) rfl rfl
  exact ⟨_, hstep.trans (writeRaw_of_fits b hk), rfl, (hread _).trans (if_pos rfl),
    fun j hj => (hread j).trans (if_neg hj)⟩

/-- Settles O11, by the three cases of a host write. -/
theorem writeArgWritesArg : Obligations.WriteArgWritesArg := by
  intro s v rest hin hs
  have hstep : step s = hostWrite 0 (writeArg v) { s with inputs := rest, tick := s.tick + 1 } :=
    step_operation hin (waits_of_idle_or_pending hs)
  refine ⟨fun faulted => hstep.trans (hostWrite_of_faulted faulted), fun unfaulted busy => ?_,
    fun unfaulted hidle => ?_⟩
  · obtain ⟨e, running⟩ := Option.isSome_iff_exists.1 busy
    exact ⟨_, hstep.trans (hostWrite_of_running unfaulted running), rfl, rfl, rfl⟩
  · have idle : s.engine = none := by simpa [State.busy] using hidle
    exact hstep.trans (hostWrite_of_idle unfaulted idle)

/-- Settles O14: the second Read is the first one again, on a block that still is idle or waits. -/
theorem readsChangeNothingAndAgree : Obligations.ReadsChangeNothingAndAgree :=
  fun _ _ _ hin hs => ⟨_, _, step_read hin hs, step_read rfl hs, rfl, rfl⟩

/-- Settles O18: an idle block waits for no answer. -/
theorem answerWithoutDeliveryStops : Obligations.AnswerWithoutDeliveryStops := by
  intro s status rest hin idle
  have hwaiting : s.waiting = none := by simp [State.waiting, idle]
  calc step s = portAnswer status { s with inputs := rest, tick := s.tick + 1 } :=
        step_operation hin (waits_of_idle_or_pending (.inl idle))
    _ = .fault .answerWithoutDelivery := by
        unfold portAnswer
        rw [show State.waiting { s with inputs := rest, tick := s.tick + 1 } = none from hwaiting]

end Sys2Proof
end

section
/-! PROOFS. The host's read map (spec/20_memory.md R68 to R70): one lemma per range of the table. -/

namespace Sys2Proof.Machine

variable {s : State}

/-! ### The ranges of the map -/

theorem mapWord_register (s : State) {a : Nat} (h : a < 0x10) : mapWord s a = registerWord s a :=
  if_pos h

theorem mapWord_msg (s : State) {k : Nat} (h : k ≤ 13) :
    mapWord s (0x10 + k) = some ((s.msg.toList.getD k 0).zeroExtend 32) := by
  rw [mapWord, if_neg (by omega), if_pos (by omega), Nat.add_sub_cancel_left]
  exact if_pos (decide_eq_true (by omega))

theorem mapWord_context {c j : Nat} (hc : c < s.numContexts) (hn : s.numContexts ≤ 16) (hj : j < 8) :
    mapWord s (0x100 + 8 * c + j) = contextWord (s.ctx c) j := by
  have hdiv : (0x100 + 8 * c + j - 0x100) / 8 = c := by omega
  have hmod : (0x100 + 8 * c + j - 0x100) % 8 = j := by omega
  rw [mapWord, if_neg (by omega), if_neg (by omega), if_pos (by omega), hdiv, hmod, if_pos hc]

theorem mapWord_carry {c k : Nat} (hc : c < s.numContexts) (hn : s.numContexts ≤ 16) (hk : k < Config.carryCap)
    (hlen : k < (s.ctx c).carryLen) : mapWord s (0x1000 + 0x100 * c + k) = some ((s.carryAt c k).zeroExtend 32) := by
  have hk' : k < 240 := hk
  have hdiv : (0x1000 + 0x100 * c + k - 0x1000) / 0x100 = c := by omega
  have hmod : (0x1000 + 0x100 * c + k - 0x1000) % 0x100 = k := by omega
  rw [mapWord, if_neg (by omega), if_neg (by omega), if_neg (by omega), if_pos (by omega), hdiv, hmod]
  exact if_pos (decide_eq_true ⟨hc, hk, hlen⟩)

theorem mapWord_lut {j : Nat} (hv : s.lutValid = true) (hj : j < Config.lutDim * Config.lutDim) :
    mapWord s (0x20000 + j) = some ((s.lutAt j).zeroExtend 32) := by
  have hj' : j < 16641 := hj
  rw [mapWord, if_neg (by omega), if_neg (by omega), if_neg (by omega), if_neg (by omega), if_pos (by omega),
    Nat.add_sub_cancel_left]
  exact if_pos (Bool.and_eq_true_iff.2 ⟨hv, decide_eq_true hj⟩)

theorem mapWord_seq {k : Nat} (hk : k < 2 ^ 24) (hlen : k < s.seqLen) :
    mapWord s (0x01000000 + k) = some ((s.seqAt k).zeroExtend 32) := by
  rw [mapWord, if_neg (by omega), if_neg (by omega), if_neg (by omega), if_neg (by omega), if_neg (by omega),
    if_pos (by omega), Nat.add_sub_cancel_left]
  exact if_pos (decide_eq_true hlen)

theorem mapWord_icao {k : Nat} (hk : k < 2 ^ 24) (hcap : k < s.icaoCap) :
    mapWord s (0x02000000 + k) = s.icao.find k := by
  rw [mapWord, if_neg (by omega), if_neg (by omega), if_neg (by omega), if_neg (by omega), if_neg (by omega),
    if_neg (by omega), if_pos (by omega), Nat.add_sub_cancel_left, if_pos hcap]

/-! ### When a Read returns the map's word -/

/-- A Read returns the map's word in an idle block, and while a command runs at the stable addresses (R68, R70). -/
theorem hostRead_of_mapWord {a : Nat} {v : Word} (ha : a < 2 ^ 32)
    (hstable : s.busy = true → stableWhileBusy s a = true) (h : mapWord s a = some v) :
    hostRead s (BitVec.ofNat 32 a) = v := by
  have htoNat : (BitVec.ofNat 32 a).toNat = a := by rw [BitVec.toNat_ofNat, Nat.mod_eq_of_lt ha]
  have hread : (s.busy && !stableWhileBusy s a) = false := by
    cases hb : s.busy with
    | false => rfl
    | true => rw [hstable hb]; rfl
  rw [hostRead, htoNat, hread, h]
  rfl

/-- The half of a diagnostic counter that the map returns (R68). -/
theorem toNat_extractLsb'_eq_bitsOf (x : DiagCount) (lo : Nat) : (x.extractLsb' lo 32).toNat = bitsOf x lo := by
  rw [BitVec.extractLsb'_toNat, Nat.shiftRight_eq_div_pow, bitsOf]

/-- The addresses that are stable whenever BUSY = 1 (R70). -/
theorem stableWhileBusy_register {a : Nat} (h : a = 0 ∨ a = 2 ∨ a = 3 ∨ a = 7 ∨ a = 8 ∨ a = 9) :
    stableWhileBusy s a = true := by
  simp only [stableWhileBusy, decide_eq_true h, Bool.true_or]

/-- MSG_LEN_BITS and MSG are stable while a delivery is pending (R70). -/
theorem stableWhileBusy_delivery (hw : s.waiting.isSome = true) {a : Nat} (h : a = 5 ∨ (0x10 ≤ a ∧ a ≤ 0x1D)) :
    stableWhileBusy s a = true := by
  simp only [stableWhileBusy, hw, decide_eq_true h, Bool.and_self, Bool.or_true]

/-- The delivery's bytes are the first of MSG (R45). -/
theorem bytes_of_pendingDelivery {d : Delivery} (h : s.pendingDelivery = some d) :
    d.bytes = s.msg.toList.take (s.msgLenBits / 8) := by
  unfold State.pendingDelivery at h
  split at h
  · cases h
    rfl
  · cases h

end Sys2Proof.Machine

namespace Sys2Proof

open Machine

/-- Settles O15: in the idle block a Read returns the map's word, range by range. -/
theorem readMapOfTheIdleBlock : Obligations.ReadMapOfTheIdleBlock := by
  intro s hidle hn
  have read {a : Nat} {v : Word} (ha : a < 2 ^ 32) (h : mapWord s a = some v) : hostRead s (BitVec.ofNat 32 a) = v :=
    hostRead_of_mapWord ha (fun hb => absurd (hidle.symm.trans hb) nofun) h
  have register {a : Nat} {v : Word} (ha : a < 0x10) (h : registerWord s a = some v) :
      hostRead s (BitVec.ofNat 32 a) = v :=
    read (by omega) ((mapWord_register s ha).trans h)
  have context {c j : Nat} {v : Word} (hc : c < s.numContexts) (hj : j < 8) (h : contextWord (s.ctx c) j = some v) :
      hostRead s (BitVec.ofNat 32 (0x100 + 8 * c + j)) = v :=
    read (by omega) ((mapWord_context hc hn hj).trans h)
  refine ⟨?registers, ?msg, ?contexts, ?carry, ?lut, ?seq, ?icao⟩
  case registers =>
    exact ⟨register (by decide) rfl, register (by decide) rfl, register (by decide) rfl, register (by decide) rfl,
      register (by decide) rfl, register (by decide) rfl, register (by decide) rfl, register (by decide) rfl,
      register (by decide) rfl, register (by decide) rfl⟩
  case msg => exact fun k hk => read (by omega) (mapWord_msg s hk)
  case contexts =>
    intro c hc
    refine ⟨context hc (j := 0) (by decide) rfl, context hc (by decide) rfl, context hc (by decide) rfl, ?_, ?_⟩
    · rw [context hc (by decide) rfl, toNat_extractLsb'_eq_bitsOf]
    · rw [context hc (by decide) rfl, toNat_extractLsb'_eq_bitsOf]
  case carry => exact fun c k hc hk hlen => read (by omega) (mapWord_carry hc hn hk hlen)
  case lut =>
    intro i q hi hq hv
    rw [Nat.add_assoc]
    exact read (by omega) (mapWord_lut hv (lutIndex_lt hi hq))
  case seq => exact fun k hk hlen => read (by omega) (mapWord_seq hk hlen)
  case icao => exact fun k v hk hcap hfind => read (by omega) ((mapWord_icao hk hcap).trans hfind)

/-- Settles O16: each of these addresses is stable, so a Read returns the map's word, and the delivery's bytes are the
first of MSG. -/
theorem stableReadsWhileDeliveryPending : Obligations.StableReadsWhileDeliveryPending := by
  intro s hw
  have register {a : Nat} {v : Word} (ha : a = 0 ∨ a = 2 ∨ a = 3 ∨ a = 7 ∨ a = 8 ∨ a = 9)
      (h : registerWord s a = some v) : hostRead s (BitVec.ofNat 32 a) = v :=
    hostRead_of_mapWord (by omega) (fun _ => stableWhileBusy_register ha)
      ((mapWord_register s (by omega)).trans h)
  have delivery {a : Nat} {v : Word} (ha : a = 5 ∨ (0x10 ≤ a ∧ a ≤ 0x1D)) (h : mapWord s a = some v) :
      hostRead s (BitVec.ofNat 32 a) = v :=
    hostRead_of_mapWord (by omega) (fun _ => stableWhileBusy_delivery hw ha) h
  refine ⟨register (by decide) rfl, register (by decide) rfl, register (by decide) rfl, register (by decide) rfl,
    register (by decide) rfl, register (by decide) rfl, delivery (by decide) (mapWord_register s (by decide)),
    fun k hk => delivery (by omega) (mapWord_msg s hk), fun d hd k hk => ?_⟩
  rw [bytes_of_pendingDelivery hd] at hk ⊢
  have hlt : k < s.msgLenBits / 8 := (List.length_take ▸ hk).trans_le (Nat.min_le_left _ _)
  rw [List.getD_eq_getElem?_getD, List.getD_eq_getElem?_getD, List.getElem?_take_of_lt hlt]

end Sys2Proof
end

section
/-! PROOFS. Which command writes which space (spec/20_memory.md R61): one lemma per space, by the commands that keep it. -/

namespace Sys2Proof.Machine

variable {s t : State} {i : Instr}

/-- A running scan keeps what neither an accepted window nor the end of a scan writes. -/
theorem scanRun_keeps {α : Type} (space : State → α) (e : Engine) (s : State)
    (haccept : ∀ e, space (acceptWindow e s) = space s) (hend : ∀ e, space (endScan e s) = space s) :
    space (scanRun e s) = space s := by
  obtain ⟨j, _, _, _, _, heq⟩ | ⟨_, heq⟩ := scanRun_cases e s <;> rw [heq]
  · exact haccept _
  · exact hend _

/-- ICSORT keeps what the contents of the list memory have no part in. -/
theorem icsortBody_keeps {α : Type} (space : State → α) (s : State)
    (h : ∀ m, space { s with icao := m } = space s) : space (icsortBody s) = space s := by
  rw [icsortBody_eq]
  exact h _

/-! ### The spaces, each as one value -/

/-- What the host alone writes: ARG and RAW (R22, R41). -/
def State.hostSpace (s : State) : Word × Mem 8 :=
  (s.arg, s.raw)

/-- The table and its flags: LUT, LUT_VALID and DEBUG (R26, R28, R32). -/
def State.tableSpace (s : State) : Mem 16 × Bool × Bool :=
  (s.lut, s.lutValid, s.debug)

/-- The sequence, its length and its owner: SEQ, SEQ_LEN and SEQ_CTX (R29, R38). -/
def State.sequenceSpace (s : State) : Mem 16 × Nat × Nat :=
  (s.seq, s.seqLen, s.seqCtx)

/-- The message: MSG and MSG_LEN_BITS (R39, R40). -/
def State.messageSpace (s : State) : Vector Byte 14 × Nat :=
  (s.msg, s.msgLenBits)

theorem hostSpace_eq_iff : t.hostSpace = s.hostSpace ↔ t.arg = s.arg ∧ t.raw = s.raw :=
  Prod.mk_inj

theorem tableSpace_eq_iff :
    t.tableSpace = s.tableSpace ↔ t.lut = s.lut ∧ t.lutValid = s.lutValid ∧ t.debug = s.debug := by
  simp only [State.tableSpace, Prod.mk.injEq]

theorem sequenceSpace_eq_iff :
    t.sequenceSpace = s.sequenceSpace ↔ t.seq = s.seq ∧ t.seqLen = s.seqLen ∧ t.seqCtx = s.seqCtx := by
  simp only [State.sequenceSpace, Prod.mk.injEq]

theorem messageSpace_eq_iff : t.messageSpace = s.messageSpace ↔ t.msg = s.msg ∧ t.msgLenBits = s.msgLenBits :=
  Prod.mk_inj

/-! ### What each body keeps -/

theorem commandBody_hostSpace (i : Instr) (s : State) : (commandBody i s).hostSpace = s.hostSpace := by
  cases i with
  | scan c => exact scanRun_keeps State.hostSpace _ s (fun _ => rfl) (fun _ => rfl)
  | proc c n => exact scanRun_keeps State.hostSpace _ (convertBody c n s) (fun _ => rfl) (fun _ => rfl)
  | icsort => exact icsortBody_keeps State.hostSpace s (fun _ => rfl)
  | lutinit | lutrd | ctxnew | ctxfree | conv | ptest | demod | icwr | iclen | icfind => rfl

theorem commandBody_tableSpace (s : State) (hlutinit : ∀ dbg, i ≠ .lutinit dbg) :
    (commandBody i s).tableSpace = s.tableSpace := by
  cases i with
  | lutinit dbg => exact absurd rfl (hlutinit dbg)
  | scan c => exact scanRun_keeps State.tableSpace _ s (fun _ => rfl) (fun _ => rfl)
  | proc c n => exact scanRun_keeps State.tableSpace _ (convertBody c n s) (fun _ => rfl) (fun _ => rfl)
  | icsort => exact icsortBody_keeps State.tableSpace s (fun _ => rfl)
  | lutrd | ctxnew | ctxfree | conv | ptest | demod | icwr | iclen | icfind => rfl

theorem commandBody_sequenceSpace (s : State) (hconv : ∀ c n, i ≠ .conv c n) (hproc : ∀ c n, i ≠ .proc c n) :
    (commandBody i s).sequenceSpace = s.sequenceSpace := by
  cases i with
  | conv c n => exact absurd rfl (hconv c n)
  | proc c n => exact absurd rfl (hproc c n)
  | scan c => exact scanRun_keeps State.sequenceSpace _ s (fun _ => rfl) (fun _ => rfl)
  | icsort => exact icsortBody_keeps State.sequenceSpace s (fun _ => rfl)
  | lutinit | lutrd | ctxnew | ctxfree | ptest | demod | icwr | iclen | icfind => rfl

theorem commandBody_messageSpace (s : State) (hscan : ∀ c, i ≠ .scan c) (hproc : ∀ c n, i ≠ .proc c n)
    (hdemod : ∀ c off, i ≠ .demod c off) : (commandBody i s).messageSpace = s.messageSpace := by
  cases i with
  | scan c => exact absurd rfl (hscan c)
  | proc c n => exact absurd rfl (hproc c n)
  | demod c off => exact absurd rfl (hdemod c off)
  | icsort => exact icsortBody_keeps State.messageSpace s (fun _ => rfl)
  | lutinit | lutrd | ctxnew | ctxfree | conv | ptest | icwr | iclen | icfind => rfl

theorem commandBody_icao (s : State) (hicwr : ∀ idx, i ≠ .icwr idx) (hicsort : i ≠ .icsort) :
    (commandBody i s).icao = s.icao := by
  cases i with
  | icwr idx => exact absurd rfl (hicwr idx)
  | icsort => exact absurd rfl hicsort
  | scan c => exact scanRun_keeps State.icao _ s (fun _ => rfl) (fun _ => rfl)
  | proc c n => exact scanRun_keeps State.icao _ (convertBody c n s) (fun _ => rfl) (fun _ => rfl)
  | lutinit | lutrd | ctxnew | ctxfree | conv | ptest | demod | iclen | icfind => rfl

theorem commandBody_icaoLen (s : State) (hiclen : ∀ len, i ≠ .iclen len) :
    (commandBody i s).icaoLen = s.icaoLen := by
  cases i with
  | iclen len => exact absurd rfl (hiclen len)
  | scan c => exact scanRun_keeps State.icaoLen _ s (fun _ => rfl) (fun _ => rfl)
  | proc c n => exact scanRun_keeps State.icaoLen _ (convertBody c n s) (fun _ => rfl) (fun _ => rfl)
  | icsort => exact icsortBody_keeps State.icaoLen s (fun _ => rfl)
  | lutinit | lutrd | ctxnew | ctxfree | conv | ptest | demod | icwr | icfind => rfl

/-- The commands that answer nothing keep RESULT (R23). -/
theorem commandBody_result (s : State) (h : (∃ dbg, i = .lutinit dbg) ∨ (∃ c, i = .ctxnew c) ∨ (∃ c, i = .ctxfree c) ∨
    (∃ idx, i = .icwr idx) ∨ (∃ len, i = .iclen len) ∨ i = .icsort) : (commandBody i s).result = s.result := by
  cases i with
  | icsort => exact icsortBody_keeps State.result s (fun _ => rfl)
  | lutinit | ctxnew | ctxfree | icwr | iclen => rfl
  | lutrd | conv | scan | proc | ptest | demod | icfind => simp at h

/-- A command keeps a space that its body keeps, when fault entry keeps it (R234). -/
theorem exec_keeps {α : Type} {space : State → α} (hx : exec i s = .next t)
    (hfault : ∀ f w, space (raiseFault f w s) = space s) (hbody : space (commandBody i s) = space s) :
    space t = space s := by
  obtain ⟨f, _, rfl⟩ | ⟨_, rfl⟩ := exec_cases hx
  · exact hfault f _
  · exact hbody

end Sys2Proof.Machine

namespace Sys2Proof

open Machine

/-- Settles O54, space by space: a fault keeps every space, and a body those of other commands. -/
theorem eachSpaceHasItsWriters : Obligations.EachSpaceHasItsWriters := by
  intro i s t hx
  obtain ⟨harg, hraw⟩ := hostSpace_eq_iff.1 (exec_keeps hx (fun _ _ => rfl) (commandBody_hostSpace i s))
  refine ⟨harg, hraw, fun h => ?table, fun hc hp => ?sequence, fun hs hp hd => ?message, fun hw hs => ?icao,
    fun h => ?icaoLen, fun h => ?result⟩
  case table => exact tableSpace_eq_iff.1 (exec_keeps hx (fun _ _ => rfl) (commandBody_tableSpace s h))
  case sequence => exact sequenceSpace_eq_iff.1 (exec_keeps hx (fun _ _ => rfl) (commandBody_sequenceSpace s hc hp))
  case message => exact messageSpace_eq_iff.1 (exec_keeps hx (fun _ _ => rfl) (commandBody_messageSpace s hs hp hd))
  case icao => exact exec_keeps (space := State.icao) hx (fun _ _ => rfl) (commandBody_icao s hw hs)
  case icaoLen => exact exec_keeps (space := State.icaoLen) hx (fun _ _ => rfl) (commandBody_icaoLen s h)
  case result => exact exec_keeps (space := State.result) hx (fun _ _ => rfl) (commandBody_result s h)

end Sys2Proof
end

section
/-! PROOFS. The encoding (spec/30_encoding.md R90 to R100): the rows of the opcode map by their bit fields, the decoder
as a choice of a row, and what issuing an illegal word does. -/

namespace Sys2Proof

open Machine

/-! ### Bit fields of a word -/

theorem bitField_lt (w : Word) (hi lo : Nat) : bitField w hi lo < 2 ^ (hi + 1 - lo) :=
  Nat.mod_lt _ (Nat.two_pow_pos _)

/-- A word is its OPC field and the 28 bits below it (R91). -/
theorem word_eq_iff_bitFields (x y : Word) :
    x = y ↔ bitField x 31 28 = bitField y 31 28 ∧ bitField x 27 0 = bitField y 27 0 := by
  refine ⟨fun h => h ▸ ⟨rfl, rfl⟩, fun ⟨hopc, hrest⟩ => BitVec.eq_of_toNat_eq ?_⟩
  have hx := x.isLt
  have hy := y.isLt
  simp only [bitField] at hopc hrest
  omega

theorem bitField_and (x y : Word) (hi lo : Nat) :
    bitField (x &&& y) hi lo = bitField x hi lo &&& bitField y hi lo := by
  simp [bitField, Nat.and_div_two_pow, Nat.and_mod_two_pow]

theorem bitField_eq_zero_iff (w : Word) (hi lo : Nat) :
    bitField w hi lo = 0 ↔ ∀ k, lo ≤ k → k ≤ hi → w.toNat.testBit k = false := by
  simp only [bitField, Nat.eq_iff_testBit_eq, Nat.testBit_mod_two_pow, Nat.testBit_div_two_pow, Nat.zero_testBit,
    Bool.and_eq_false_imp, decide_eq_true_eq]
  exact ⟨fun h k hlo hhi => by simpa [Nat.sub_add_cancel hlo] using h (k - lo) (by omega),
    fun h k hk => h (k + lo) (by omega) (by omega)⟩

/-- Bits 27 down to `lo` are zero when CTX and the bits of IMM from `lo` on are. -/
theorem bitField_beq_zero_ctx_imm (w : Word) {lo : Nat} (hlo : lo < 24) :
    (bitField w 27 lo == 0) = (bitField w 27 24 == 0 && bitField w 23 lo == 0) := by
  rw [Bool.eq_iff_iff]
  simp only [Bool.and_eq_true, beq_iff_eq, bitField_eq_zero_iff]
  refine ⟨fun h => ⟨fun k hk => h k (by omega), fun k hk _ => h k hk (by omega)⟩, ?_⟩
  rintro ⟨hctx, himm⟩ k hk hk'
  obtain hk24 | hk24 := Nat.lt_or_ge k 24
  · exact himm k hk (by omega)
  · exact hctx k hk24 hk'

/-- A mask of the bits hi down to lo leaves nothing of a word exactly when that field is zero. -/
theorem and_fieldMask_eq_zero_iff (w : Word) {hi lo : Nat} (hhi : hi ≤ 27) :
    bitField w 27 0 &&& (2 ^ (hi + 1 - lo) - 1) * 2 ^ lo = 0 ↔ bitField w hi lo = 0 := by
  rw [bitField_eq_zero_iff, bitField]
  simp only [Nat.eq_iff_testBit_eq, Nat.testBit_and, Nat.testBit_mul_two_pow, Nat.testBit_two_pow_sub_one,
    Nat.testBit_mod_two_pow, Nat.zero_testBit, Nat.pow_zero, Nat.div_one]
  grind

/-! ### The rows of the opcode map -/

/-- The highest and the lowest of the bits that a command's row reserves (R92, R93, R97); an empty range where the row
reserves none. -/
def reservedBits : Instr → Nat × Nat
  | .lutinit _ => (27, 1)
  | .lutrd _ _ => (27, 16)
  | .ctxnew _ | .ctxfree _ | .scan _ => (23, 0)
  | .conv _ _ | .proc _ _ | .ptest _ _ | .demod _ _ => (0, 1)
  | .icwr _ | .iclen _ => (27, 24)
  | .icsort | .icfind => (27, 0)

/-- What a word holds in the bits that `j`'s row reserves. -/
def reservedField (w : Word) (j : Instr) : Nat :=
  bitField w (reservedBits j).1 (reservedBits j).2

/-- The command of `j`'s row with the operands of a word (R94). -/
def operandsFrom (w : Word) : Instr → Instr
  | .lutinit _ => .lutinit (bitField w 0 0)
  | .lutrd _ _ => .lutrd (bitField w 15 8) (bitField w 7 0)
  | .ctxnew _ => .ctxnew (bitField w 27 24)
  | .ctxfree _ => .ctxfree (bitField w 27 24)
  | .conv _ _ => .conv (bitField w 27 24) (bitField w 23 0)
  | .scan _ => .scan (bitField w 27 24)
  | .proc _ _ => .proc (bitField w 27 24) (bitField w 23 0)
  | .ptest _ _ => .ptest (bitField w 27 24) (bitField w 23 0)
  | .demod _ _ => .demod (bitField w 27 24) (bitField w 23 0)
  | .icwr _ => .icwr (bitField w 23 0)
  | .iclen _ => .iclen (bitField w 23 0)
  | .icsort => .icsort
  | .icfind => .icfind

/-- The word selects the command of `j`'s row (R95). -/
def SelectsRow (w : Word) (j : Instr) : Prop :=
  w &&& (opcodeRow j).2 = (opcodeRow j).1

/-- OPC is one of the three values that select no command (R96). -/
def ReservedOpcode (w : Word) : Prop :=
  bitField w 31 28 = 0x0 ∨ bitField w 31 28 = 0xE ∨ bitField w 31 28 = 0xF

theorem opcodeRow_operandsFrom (w : Word) (j : Instr) : opcodeRow (operandsFrom w j) = opcodeRow j := by
  cases j <;> rfl

theorem opcodeRow_match_opcode (j : Instr) : bitField (opcodeRow j).1 31 28 = Laws.opcode j := by
  cases j <;> simp [opcodeRow, Laws.opcode, Laws.rowMatch, bitField]

/-- A row's match holds its OPC and nothing else, and its mask OPC and the reserved bits (R95, R97). -/
theorem opcodeRow_fields (j : Instr) :
    bitField (opcodeRow j).1 27 0 = 0 ∧ bitField (opcodeRow j).2 31 28 = 2 ^ 4 - 1 ∧
    bitField (opcodeRow j).2 27 0 =
      (2 ^ ((reservedBits j).1 + 1 - (reservedBits j).2) - 1) * 2 ^ (reservedBits j).2 := by
  cases j <;> simp only [opcodeRow, reservedBits] <;> decide

theorem reservedBits_le (j : Instr) : (reservedBits j).1 ≤ 27 := by
  cases j <;> simp [reservedBits]

/-- A word selects a row exactly when it has the row's OPC and its reserved bits are zero (R95, R97). -/
theorem selectsRow_iff (w : Word) (j : Instr) :
    SelectsRow w j ↔ bitField w 31 28 = Laws.opcode j ∧ reservedField w j = 0 := by
  obtain ⟨hmatch, hopc, hreserved⟩ := opcodeRow_fields j
  rw [SelectsRow, word_eq_iff_bitFields, bitField_and, bitField_and, opcodeRow_match_opcode, hmatch, hopc, hreserved,
    and_fieldMask_eq_zero_iff w (reservedBits_le j), Nat.and_two_pow_sub_one_of_lt_two_pow (bitField_lt w 31 28),
    reservedField]

/-- Every OPC is reserved or a row's (R95, R96). -/
theorem reservedOpcode_or_row (w : Word) : ReservedOpcode w ∨ ∃ j, bitField w 31 28 = Laws.opcode j := by
  have rows : ∀ n < 16, (n = 0x0 ∨ n = 0xE ∨ n = 0xF) ∨
      ∃ j ∈ [Instr.lutinit 0, .lutrd 0 0, .ctxnew 0, .ctxfree 0, .conv 0 0, .scan 0, .proc 0 0, .ptest 0 0,
        .demod 0 0, .icwr 0, .iclen 0, .icsort, .icfind], n = Laws.opcode j := by decide
  exact (rows _ (bitField_lt w 31 28)).imp_right fun ⟨j, _, hj⟩ => ⟨j, hj⟩

/-! ### The decoder chooses a row -/

theorem decode_of_reservedOpcode {w : Word} (h : ReservedOpcode w) : decode w = .error .reservedOpcode := by
  obtain h | h | h := h <;> simp only [decode, h]

/-- A word with a row's OPC is the row's command with the word's operands, or is rejected for its reserved bits (R95,
R97, R99). -/
theorem decode_of_opcode {w : Word} {j : Instr} (h : bitField w 31 28 = Laws.opcode j) :
    decode w = ifReservedZero (reservedField w j == 0) (operandsFrom w j) := by
  simp only [decode, h]
  cases j with
  | lutinit | lutrd | icsort | icfind =>
    simp [Laws.opcode, Laws.rowMatch, operandsFrom, reservedField, reservedBits, bitField_beq_zero_ctx_imm]
  | ctxnew | ctxfree | scan | icwr | iclen =>
    simp [Laws.opcode, Laws.rowMatch, operandsFrom, reservedField, reservedBits]
  | conv | proc | ptest | demod =>
    have hempty : bitField w 0 1 = 0 := Nat.mod_one _
    simp [Laws.opcode, Laws.rowMatch, operandsFrom, reservedField, reservedBits, hempty]

/-- The decoder's answers, by the row that a word selects (R95 to R97, R99). -/
theorem decode_eq_ok_iff {w : Word} {i : Instr} :
    decode w = .ok i ↔ ∃ j, SelectsRow w j ∧ operandsFrom w j = i := by
  refine ⟨fun h => ?_, ?_⟩
  · obtain hres | ⟨j, hj⟩ := reservedOpcode_or_row w
    · exact absurd ((decode_of_reservedOpcode hres).symm.trans h) nofun
    · rw [decode_of_opcode hj] at h
      obtain ⟨hzero, hi⟩ := ifReservedZero_ok h
      exact ⟨j, (selectsRow_iff w j).2 ⟨hj, beq_iff_eq.1 hzero⟩, hi⟩
  · rintro ⟨j, hsel, rfl⟩
    obtain ⟨hj, hzero⟩ := (selectsRow_iff w j).1 hsel
    rw [decode_of_opcode hj, beq_iff_eq.2 hzero, ifReservedZero_true]

theorem decode_of_not_selectsRow {w : Word} {j : Instr} (hj : bitField w 31 28 = Laws.opcode j)
    (hsel : ¬ SelectsRow w j) : decode w = .error .reservedField := by
  have hzero : reservedField w j ≠ 0 := fun h => hsel ((selectsRow_iff w j).2 ⟨hj, h⟩)
  rw [decode_of_opcode hj, beq_eq_false_iff_ne.2 hzero, ifReservedZero_false]

/-- A word is a command exactly when it is illegal neither by R96 nor by R97. -/
theorem decode_ok_iff_legal (w : Word) :
    (∃ i, decode w = .ok i) ↔
      ¬ (ReservedOpcode w ∨ ∃ j, bitField w 31 28 = Laws.opcode j ∧ ¬ SelectsRow w j) := by
  constructor
  · rintro ⟨i, hi⟩ (hres | ⟨j, hj, hsel⟩)
    · exact absurd ((decode_of_reservedOpcode hres).symm.trans hi) nofun
    · exact absurd ((decode_of_not_selectsRow hj hsel).symm.trans hi) nofun
  · intro h
    obtain hres | ⟨j, hj⟩ := reservedOpcode_or_row w
    · exact absurd (.inl hres) h
    · have hsel : SelectsRow w j := by_contra fun hsel => h (.inr ⟨j, hj, hsel⟩)
      exact ⟨_, decode_eq_ok_iff.2 ⟨j, hsel, rfl⟩⟩

/-! ### The encoder writes a row's fields -/

theorem wellFormed_operandsFrom (w : Word) (j : Instr) : (operandsFrom w j).wellFormed = true := by
  cases j
  case icsort | icfind => rfl
  all_goals
    simp only [operandsFrom, Instr.wellFormed, bitField, Bool.and_eq_true, decide_eq_true_eq]
    omega

/-- A word that selects a row is the word of the row's command with the word's operands: OPC, the reserved bits and
the operands are all of it. -/
theorem encode_operandsFrom {w : Word} {j : Instr} (h : SelectsRow w j) : encode (operandsFrom w j) = w := by
  obtain ⟨hopc, hzero⟩ := (selectsRow_iff w j).1 h
  have hw := w.isLt
  refine BitVec.eq_of_toNat_eq ?_
  cases j
  all_goals
    simp only [Laws.opcode, Laws.rowMatch, reservedField, reservedBits, bitField] at hopc hzero
    simp only [operandsFrom, encode, bitField, BitVec.toNat_ofNat]
    omega

/-- The word of a well-formed command carries its row's OPC, whichever the command. -/
theorem opcode_encode {i : Instr} (h : i.wellFormed = true) : bitField (encode i) 31 28 = Laws.opcode i := by
  cases i with
  | lutinit dbg => exact Laws.TableRow.lutinit dbg h
  | lutrd di dq => exact Laws.TableRow.lutrd di dq h
  | ctxnew c => exact Laws.TableRow.ctxnew c h
  | ctxfree c => exact Laws.TableRow.ctxfree c h
  | conv c n => exact Laws.TableRow.conv c n h
  | scan c => exact Laws.TableRow.scan c h
  | proc c n => exact Laws.TableRow.proc c n h
  | ptest c off => exact Laws.TableRow.ptest c off h
  | demod c off => exact Laws.TableRow.demod c off h
  | icwr idx => exact Laws.TableRow.icwr idx h
  | iclen len => exact Laws.TableRow.iclen len h
  | icsort => exact Laws.TableRow.icsort h
  | icfind => exact Laws.TableRow.icfind h

theorem reservedField_encode {i : Instr} (h : i.wellFormed = true) : reservedField (encode i) i = 0 := by
  cases i
  all_goals
    simp only [Instr.wellFormed, Bool.and_eq_true, decide_eq_true_eq] at h
    simp only [reservedField, reservedBits, encode, bitField_ofNat]
    omega

/-- Operands that fit their fields are read back from the command's word (R93, R94). -/
theorem operandsFrom_encode {i : Instr} (h : i.wellFormed = true) : operandsFrom (encode i) i = i := by
  cases i
  case icsort | icfind => rfl
  all_goals
    simp only [Instr.wellFormed, Bool.and_eq_true, decide_eq_true_eq] at h
    simp only [operandsFrom, encode, bitField_ofNat]
    congr 1 <;> omega

/-! ### Issuing an illegal word -/

/-- The Issue to an idle, unfaulted block reaches the decoder (R232). -/
theorem step_of_readyFor_issue {s : State} {w : Word} {rest : List PortOp} (h : ReadyFor (.issue w) rest s) :
    step s = issueWord w { s with inputs := rest, tick := s.tick + 1 } :=
  (step_of_readyFor h).trans (hostWrite_of_idle h.unfaulted h.idle)

theorem issueWord_of_rejected {w : Word} {reason : DecodeError} (rejects : decode w = .error reason) (s : State) :
    issueWord w s = .next (raiseFault .illegalCommand w s) := by
  rw [issueWord, rejects]

/-- The Issue of a rejected word raises ILLEGAL_COMMAND with the word and writes nothing else (R96, R97, R234). -/
theorem step_of_rejected {s : State} {w : Word} {rest : List PortOp} {reason : DecodeError}
    (h : ReadyFor (.issue w) rest s) (rejects : decode w = .error reason) :
    step s = .next { s with
      inputs := rest, tick := s.tick + 1, fault := .illegalCommand, faultInfo := w, engine := none } :=
  (step_of_readyFor_issue h).trans (issueWord_of_rejected rejects _)

/-! ### The obligations -/

/-- Settles O1: the word of a well-formed command selects the command's row and holds its operands. -/
theorem decodeOfEncodeIsTheCommand : Obligations.DecodeOfEncodeIsTheCommand := by
  intro i h
  have hsel : SelectsRow (encode i) i := (selectsRow_iff _ i).2 ⟨opcode_encode h, reservedField_encode h⟩
  exact decode_eq_ok_iff.2 ⟨i, hsel, operandsFrom_encode h⟩

/-- Settles O2: the command is the one of the row that the word selects. -/
theorem encodeOfDecodeIsTheWord : Obligations.EncodeOfDecodeIsTheWord := by
  intro w i h
  obtain ⟨j, hsel, rfl⟩ := decode_eq_ok_iff.1 h
  exact ⟨wellFormed_operandsFrom w j, encode_operandsFrom hsel⟩

/-- Settles O3: the row a word selects is the row of the command it decodes to. -/
theorem wordSelectsRowByMatchAndMask : Obligations.WordSelectsRowByMatchAndMask := by
  intro w j
  refine ⟨fun hsel => ⟨_, decode_eq_ok_iff.2 ⟨j, hsel, rfl⟩, opcodeRow_operandsFrom w j⟩, ?_⟩
  rintro ⟨i, hi, hrow⟩
  obtain ⟨k, hsel, rfl⟩ := decode_eq_ok_iff.1 hi
  rwa [← hrow, opcodeRow_operandsFrom]

/-- Settles O5: the decoder rejects the word by its OPC alone, and the Issue of a rejected word faults. -/
theorem reservedOpcodeIsIllegal : Obligations.ReservedOpcodeIsIllegal := by
  refine ⟨fun s w rest h hres => ?_, rfl⟩
  have rejects := decode_of_reservedOpcode hres
  exact ⟨rejects, step_of_rejected h rejects⟩

/-- Settles O6: a row's OPC without the row's match is rejected, and a word that neither rule makes illegal
selects a row. -/
theorem reservedFieldIsIllegal : Obligations.ReservedFieldIsIllegal := by
  refine ⟨fun s w rest j h hj hsel => ?_, fun w => ?_⟩
  · have rejects := decode_of_not_selectsRow (hj.trans (opcodeRow_match_opcode j)) hsel
    exact ⟨rejects, step_of_rejected h rejects⟩
  · simpa only [ReservedOpcode, SelectsRow, ← opcodeRow_match_opcode, or_assoc] using decode_ok_iff_legal w

/-- Settles O4, word by word. -/
theorem specWordsDecode : Obligations.SpecWordsDecode := by
  unfold Obligations.SpecWordsDecode
  decide

end Sys2Proof
end

section
/-! PROOFS. The magnitude table and the context slots (spec/40_table_context.md R120 to R128): the table's value as a
rounded root, the table commands LUTINIT and LUTRD, and which command writes which slot. -/

namespace Sys2Proof.Machine

variable {s t : State} {i : Instr}

/-! ### The table's value is a rounded root -/

/-- The digit-by-digit root of R11 is the library's. -/
theorem isqrt_eq_sqrt (n : Nat) : isqrt n = Nat.sqrt n :=
  isqrt_eq (Nat.sqrt_le n) (Nat.lt_succ_sqrt n)

/-- Twice the number that R120 rounds is the real root of the number whose integer root `lutval` takes. -/
theorem two_mul_root_eq_sqrt (i q : Nat) :
    2 * (360 * Real.sqrt ((i : ℝ) ^ 2 + (q : ℝ) ^ 2)) = Real.sqrt ((518400 * (i * i + q * q) : Nat) : ℝ) := by
  have hsq : ((518400 * (i * i + q * q) : Nat) : ℝ) = 720 ^ 2 * ((i : ℝ) ^ 2 + (q : ℝ) ^ 2) := by
    push_cast
    ring
  rw [hsq, Real.sqrt_mul (by positivity), Real.sqrt_sq (by positivity)]
  ring

/-- Half a real root rounds to half the integer root, rounded up: the rounding changes only at halves of odd integers,
and the integer root says on which side of an integer the real root lies. -/
theorem round_half_sqrt {y : ℝ} {n : Nat} (hy : 2 * y = Real.sqrt n) :
    round y = (((Nat.sqrt n + 1) / 2 : Nat) : Int) := by
  have hlo : (Nat.sqrt n : ℝ) ≤ 2 * y := hy ▸ Real.nat_sqrt_le_real_sqrt
  have hhi : 2 * y < Nat.sqrt n + 1 := hy ▸ Real.real_sqrt_lt_nat_sqrt_succ
  obtain ⟨v, hv⟩ : ∃ v, v = (Nat.sqrt n + 1) / 2 := ⟨_, rfl⟩
  have hvlo : (2 * v : ℝ) ≤ Nat.sqrt n + 1 := by exact_mod_cast (show 2 * v ≤ Nat.sqrt n + 1 by omega)
  have hvhi : (Nat.sqrt n : ℝ) ≤ 2 * v := by exact_mod_cast (show Nat.sqrt n ≤ 2 * v by omega)
  rw [← hv, round_eq, Int.floor_eq_iff]
  push_cast
  constructor <;> linarith

/-- Half the real root of an even number lies nowhere halfway between two integers: its double would be odd, and so
would be the square of that. -/
theorem half_sqrt_ne_add_half {y : ℝ} {n : Nat} (hn : Even n) (hy : 2 * y = Real.sqrt n) (m : Int) :
    y ≠ (m : ℝ) + 1 / 2 := by
  intro htie
  have hsq : (2 * (m : ℝ) + 1) ^ 2 = n := by
    calc (2 * (m : ℝ) + 1) ^ 2 = (2 * y) ^ 2 := by rw [htie]; ring
      _ = (n : ℝ) := by rw [hy, Real.sq_sqrt (Nat.cast_nonneg n)]
  have hint : (2 * m + 1) ^ 2 = (n : Int) := by exact_mod_cast hsq
  have hodd : Odd ((2 * m + 1) ^ 2) := (odd_two_mul_add_one m).pow
  rw [hint, Int.odd_coe_nat] at hodd
  exact Nat.not_even_iff_odd.2 hodd hn

/-! ### Values of the table -/

theorem lutval_comm (i q : Nat) : lutval i q = lutval q i := by
  rw [lutval, lutval, Nat.add_comm (i * i)]

theorem lutval_mono {i i' q q' : Nat} (hi : i ≤ i') (hq : q ≤ q') : lutval i q ≤ lutval i' q' := by
  have hsum : i * i + q * q ≤ i' * i' + q' * q' :=
    Nat.add_le_add (Nat.mul_self_le_mul_self hi) (Nat.mul_self_le_mul_self hq)
  exact Nat.div_le_div_right (Nat.add_le_add_right (isqrt_mono (Nat.mul_le_mul_left _ hsum)) 1)

theorem lutval_zero_left (q : Nat) : lutval 0 q = 360 * q := by
  have hroot : isqrt (518400 * (0 * 0 + q * q)) = 720 * q := by
    rw [isqrt_eq_sqrt, show 518400 * (0 * 0 + q * q) = 720 * q * (720 * q) by ring, Nat.sqrt_eq]
  rw [lutval, hroot]
  omega

/-- A value of the table, by the squares of the two odd numbers around its double. -/
theorem lutval_eq_of_bounds {i q v : Nat} (hlo : (2 * v - 1) ^ 2 ≤ 518400 * (i ^ 2 + q ^ 2))
    (hhi : 518400 * (i ^ 2 + q ^ 2) < (2 * v + 1) ^ 2) : lutval i q = v := by
  rw [← Nat.le_sqrt'] at hlo
  rw [← Nat.sqrt_lt'] at hhi
  rw [lutval, isqrt_eq_sqrt, ← Nat.pow_two, ← Nat.pow_two]
  omega

theorem lutval_max : lutval 128 128 = 65167 :=
  lutval_eq_of_bounds (by decide) (by decide)

/-- Every value fits a table entry (R121). -/
theorem lutval_lt {i q : Nat} (hi : i ≤ 128) (hq : q ≤ 128) : lutval i q < 2 ^ 16 :=
  calc lutval i q ≤ lutval 128 128 := lutval_mono hi hq
    _ = 65167 := lutval_max
    _ < 2 ^ 16 := by decide

/-- An entry of the table just initialised reads as its value: nothing is lost to its 16 bits. -/
theorem toNat_lutAt_lutinitBody (dbg : Nat) (s : State) {i q : Nat} (hi : i ≤ 128) (hq : q ≤ 128) :
    ((lutinitBody dbg s).lutAt (lutIndex i q)).toNat = lutval i q := by
  rw [lutAt_lutinitBody dbg s (lutIndex_lt hi hq), tableEntry_lutIndex i hq, BitVec.toNat_ofNat,
    Nat.mod_eq_of_lt (lutval_lt hi hq)]

/-! ### Commands whose checks pass -/

theorem exec_of_checks_pass (h : firstFault (commandChecks i s) = none) : exec i s = .next (commandBody i s) := by
  rw [exec_eq_checked, checked_pass h]

theorem exec_lutinit (dbg : Nat) (s : State) : exec (.lutinit dbg) s = .next (lutinitBody dbg s) :=
  exec_of_checks_pass rfl

theorem exec_lutrd {di dq : Nat} (initialised : s.lutValid = true) (hdi : di ≤ 128) (hdq : dq ≤ 128) :
    exec (.lutrd di dq) s = .next (lutrdBody di dq s) :=
  exec_of_checks_pass (by simp [commandChecks, initialised, hdi, hdq])

theorem exec_ctxnew {c : Nat} (hc : c < s.numContexts) (free : (s.ctx c).valid = false) :
    exec (.ctxnew c) s = .next (ctxnewBody c s) :=
  exec_of_checks_pass (by simp [commandChecks, hc, free])

theorem exec_ctxfree {c : Nat} (hc : c < s.numContexts) (created : (s.ctx c).valid = true) :
    exec (.ctxfree c) s = .next (ctxfreeBody c s) :=
  exec_of_checks_pass (by simp [commandChecks, hc, created])

/-! ### What is written to a slot -/

/-- A context store with slot c replaced holds at c what replaced it. -/
theorem ctxs_eq_set_ctx {c : Nat} {x : Context} (hc : c < s.numContexts) (h : t.ctxs = s.ctxs.set c x) :
    t.ctxs = s.ctxs.set c (t.ctx c) := by
  rw [ctx_of_ctxs_set h, if_pos ⟨rfl, hc⟩, h]

theorem ctx_of_ctxs_set_of_ne {c d : Nat} {x : Context} (hd : d ≠ c) (h : t.ctxs = s.ctxs.set c x) :
    t.ctx d = s.ctx d := by
  rw [ctx_of_ctxs_set h, if_neg fun hdc => hd hdc.1]

theorem ctx_ctxnewBody {c : Nat} (hc : c < s.numContexts) :
    (ctxnewBody c s).ctx c = { valid := true, handle := s.arg, carryLen := 0, carry := [], diagOffset := 0 } :=
  (ctx_of_ctxs_set (s := s) rfl c).trans (if_pos ⟨rfl, hc⟩)

theorem ctx_ctxfreeBody {c : Nat} (hc : c < s.numContexts) :
    (ctxfreeBody c s).ctx c = { valid := false, handle := 0, carryLen := 0, carry := [], diagOffset := 0 } :=
  (ctx_of_ctxs_set (s := s) rfl c).trans (if_pos ⟨rfl, hc⟩)

theorem ctxfreeBody_seqValid (c : Nat) (s : State) :
    (ctxfreeBody c s).seqValid = (s.seqValid && decide (s.seqCtx ≠ c)) :=
  rfl

/-- A running scan writes no slot but its own, which the copy-back of R159 replaces. -/
theorem ctx_scanRun_of_ne {e : Engine} {c : Nat} (hc : c ≠ e.ctx) : (scanRun e s).ctx c = s.ctx c := by
  obtain ⟨j, _, _, _, _, heq⟩ | ⟨_, heq⟩ := scanRun_cases e s <;> rw [heq]
  · exact ctx_congr (acceptWindow_ctxs s _) c
  · exact ctx_of_ctxs_set_of_ne hc rfl

/-- A command's body writes the slot of its own CTX field or none (R128). -/
theorem commandBody_ctx {c : Nat} (s : State) (hmay : ¬ mayWriteContext i c) :
    (commandBody i s).ctx c = s.ctx c := by
  cases i with
  | ctxnew d => exact ctx_of_ctxs_set_of_ne (fun hcd => hmay (.inl (hcd ▸ rfl))) rfl
  | ctxfree d => exact ctx_of_ctxs_set_of_ne (fun hcd => hmay (.inr (.inl (hcd ▸ rfl)))) rfl
  | scan d => exact ctx_scanRun_of_ne fun hcd => hmay (.inr (.inr (.inl (hcd ▸ rfl))))
  | proc d n =>
    have hcd : c ≠ d := fun hcd => hmay (.inr (.inr (.inr ⟨n, hcd ▸ rfl⟩)))
    exact (ctx_scanRun_of_ne hcd).trans (ctx_congr (convertBody_ctxs s d n) c)
  | icsort => exact icsortBody_keeps (fun s => s.ctx c) s (fun _ => rfl)
  | lutinit | lutrd | conv | ptest | demod | icwr | iclen | icfind => rfl

end Sys2Proof.Machine

namespace Sys2Proof

open Machine

/-- Settles O23: what is rounded is half the real root, and the table holds half the integer root, of the same even
number. -/
theorem lutvalIsTheRoundedRoot : Obligations.LutvalIsTheRoundedRoot := by
  intro i q _ _
  have hy := two_mul_root_eq_sqrt i q
  have heven : Even (518400 * (i * i + q * q)) := Even.mul_right (by decide) _
  refine ⟨?_, half_sqrt_ne_add_half heven hy, ?_⟩
  · rw [round_half_sqrt hy, lutval, isqrt_eq_sqrt]
  · rw [lutval, isqrt_eq_sqrt, Nat.pow_two, Nat.pow_two]

/-- Settles O24: the bounds from monotonicity, each selected value from the two odd squares around it. -/
theorem lutvalProperties : Obligations.LutvalProperties := by
  refine ⟨lutval_comm, lutval_zero_left 0, fun i => (lutval_comm i 0).trans (lutval_zero_left i),
    fun _ _ _ _ => lutval_mono, fun i q hi hq => ⟨lutval_mono hi hq, lutval_lt hi hq⟩, lutval_max,
    ?_, ?_, ?_, ?_, ?_, ?_, ?_, ?_, ?_⟩
  all_goals exact lutval_eq_of_bounds (by decide) (by decide)

/-- Settles O25: LUTINIT has no checks, and what it writes to the table depends on nothing. -/
theorem lutinitWritesTheTable : Obligations.LutinitWritesTheTable := by
  intro dbg s _
  exact ⟨_, exec_lutinit dbg s, rfl, fun i q => toNat_lutAt_lutinitBody dbg s, fun again _ => exec_lutinit again _⟩

/-- Settles O26: the operands pass LUTRD's checks, and its body writes RESULT alone. -/
theorem lutrdReadsOneEntry : Obligations.LutrdReadsOneEntry :=
  fun _ _ _ => exec_lutrd

/-- Settles O27, by what the slot holds after CTXNEW. -/
theorem ctxnewCreatesTheContext : Obligations.CtxnewCreatesTheContext := by
  intro c s hc free
  have hset : (ctxnewBody c s).ctxs = s.ctxs.set c ((ctxnewBody c s).ctx c) := ctxs_eq_set_ctx hc rfl
  have hframe : ctxnewBody c s = { s with ctxs := s.ctxs.set c ((ctxnewBody c s).ctx c) } :=
    congrArg (fun ctxs => { s with ctxs := ctxs }) hset
  refine ⟨_, exec_ctxnew hc free, hframe, ?_, ?_, ?_, ?_, fun d hd => ctx_of_ctxs_set_of_ne hd rfl⟩
  all_goals rw [ctx_ctxnewBody hc]

/-- Settles O28, by what the slot holds after CTXFREE and whether it owned the pending sequence. -/
theorem ctxfreeReleasesTheContext : Obligations.CtxfreeReleasesTheContext := by
  intro c s hc created
  have hset : (ctxfreeBody c s).ctxs = s.ctxs.set c ((ctxfreeBody c s).ctx c) := ctxs_eq_set_ctx hc rfl
  have hframe : ctxfreeBody c s = { s with
      ctxs := s.ctxs.set c ((ctxfreeBody c s).ctx c), seqValid := (ctxfreeBody c s).seqValid } :=
    congrArg (fun ctxs => { s with ctxs := ctxs, seqValid := (ctxfreeBody c s).seqValid }) hset
  refine ⟨_, exec_ctxfree hc created, hframe, ?_, ?_, ?_, ?_, fun howner => ?owner, fun hother => ?other,
    fun d hd => ctx_of_ctxs_set_of_ne hd rfl⟩
  case owner => simp [ctxfreeBody_seqValid, howner]
  case other => simp [ctxfreeBody_seqValid, hother]
  all_goals rw [ctx_ctxfreeBody hc]

/-- Settles O29: a fault writes no slot, and a body only that of its CTX field. -/
theorem contextsAreOwned : Obligations.ContextsAreOwned :=
  fun _ s _ c hx hmay => exec_keeps (space := (State.ctx · c)) hx (fun _ _ => rfl) (commandBody_ctx s hmay)

end Sys2Proof
end

section
/-! PROOFS. The magnitude converter (spec/41_convert.md R140 to R145): the deviation fold, the magnitude of a pair of
raw bytes, and the sequence that CONV builds. -/

namespace Sys2Proof.Machine

variable {s : State}

/-! ### The deviation fold -/

theorem dev_of_gt {v : Byte} (h : 127 < v.toNat) : dev v = v.toNat - 127 :=
  if_pos h

theorem dev_of_le {v : Byte} (h : v.toNat ≤ 127) : dev v = 127 - v.toNat :=
  if_neg (Nat.not_lt.2 h)

/-- The fold is not symmetric: only the bytes above 127 reach 128, and of them only the last (R140). -/
theorem dev_eq_max_iff (v : Byte) : dev v = 128 ↔ v = 255 := by
  have hbyte : v = 255 ↔ v.toNat = 255 := BitVec.toNat_inj.symm
  rw [hbyte]
  obtain hv | hv := Nat.lt_or_ge 127 v.toNat
  · rw [dev_of_gt hv]
    omega
  · rw [dev_of_le hv]
    omega

/-! ### The magnitude of a pair -/

/-- An entry of an initialised block's table reads as its value: nothing is lost to its 16 bits. -/
theorem toNat_lutAt_of_initialised (hinv : s.Inv) (initialised : s.lutValid = true) {i q : Nat} (hi : i ≤ 128)
    (hq : q ≤ 128) : (s.lutAt (lutIndex i q)).toNat = lutval i q := by
  rw [State.lutAt, hinv.table_values initialised i q hi hq, Option.getD_some, BitVec.toNat_ofNat,
    Nat.mod_eq_of_lt (lutval_lt hi hq)]

/-- The two deviations of a pair index the table inside its bounds, so its magnitude is their value (R141). -/
theorem toNat_pairMagnitude (hinv : s.Inv) (initialised : s.lutValid = true) (p : Nat) :
    (s.pairMagnitude p).toNat = lutval (dev (s.rawAt (2 * p))) (dev (s.rawAt (2 * p + 1))) :=
  toNat_lutAt_of_initialised hinv initialised (dev_le _) (dev_le _)

/-! ### The converted sequence -/

theorem exec_conv {c n : Nat} (ready : ConvertReady c n s) : exec (.conv c n) s = .next (convertBody c n s) :=
  exec_of_checks_pass (convertChecks_pass ready)

theorem convertedSample_of_carried {c k : Nat} (h : k < (s.ctx c).carryLen) :
    convertedSample c s k = s.carryAt c k :=
  if_pos h

theorem convertedSample_of_pair (c p : Nat) (s : State) :
    convertedSample c s ((s.ctx c).carryLen + p) = s.pairMagnitude p := by
  rw [convertedSample, if_neg (Nat.not_lt.2 (Nat.le_add_right _ p)), Nat.add_sub_cancel_left]

theorem seqAt_convertBody_of_carried {c k : Nat} (n : Nat) (h : k < (s.ctx c).carryLen) :
    (convertBody c n s).seqAt k = s.carryAt c k := by
  rw [seqAt_convertBody c n s (Nat.lt_add_right _ h), convertedSample_of_carried h]

theorem seqAt_convertBody_of_pair {n p : Nat} (c : Nat) (s : State) (h : p < n / 2) :
    (convertBody c n s).seqAt ((s.ctx c).carryLen + p) = s.pairMagnitude p := by
  rw [seqAt_convertBody c n s (Nat.add_lt_add_left h _), convertedSample_of_pair]

end Sys2Proof.Machine

namespace Sys2Proof

open Machine

/-- Settles O31: the invariant gives the table's values, and the value of two deviations is symmetric. -/
theorem pairMagnitudeIsTheTableValue : Obligations.PairMagnitudeIsTheTableValue := by
  intro s p hinv initialised
  have hvalue := toNat_pairMagnitude hinv initialised p
  exact ⟨rfl, hvalue, hvalue.trans (lutval_comm _ _)⟩

/-- Settles O32: CONV's checks pass, its body writes the sequence's fields and RESULT alone, and each sample of the
sequence is a carried one or the magnitude of a pair. -/
theorem convBuildsTheSequence : Obligations.ConvBuildsTheSequence := by
  intro c n s ready
  exact ⟨_, exec_conv ready, rfl, fun _ => seqAt_convertBody_of_carried n,
    fun _ => seqAt_convertBody_of_pair c s⟩

/-- Settles O30: the stated equation is the fold's own, and the byte 255 alone reaches its bound. -/
theorem deviationFold : Obligations.DeviationFold :=
  ⟨fun v => ⟨rfl, dev_le v, dev_eq_max_iff v⟩, rfl, rfl, rfl, rfl, rfl⟩

end Sys2Proof
end

section
/-! PROOFS. The verdict of a window (spec/42_scan.md R150 to R154, R162): one lemma that orders its conditions, the
noise check by multiples of the mean, and PTEST. -/

namespace Sys2Proof.Machine

variable {s : State} {x : Nat → Nat}

/-! ### The conditions of R151 and the noise check of R152 -/

/-- A trough that does not lie below the third sample (R151, condition 3). -/
def EarlyTroughFails (x : Nat → Nat) : Prop :=
  ∃ k, 3 ≤ k ∧ k ≤ 6 ∧ x 2 ≤ x k

/-- A trough that does not lie below the tenth sample (R151, condition 7). -/
def LateTroughFails (x : Nat → Nat) : Prop :=
  ∃ k, 10 ≤ k ∧ k ≤ 15 ∧ x 9 ≤ x k

/-- Some peak divided by the mean of the peaks exceeds 2 (R152). -/
def NoiseCheckFails (x : Nat → Nat) : Prop :=
  ∃ p, (p = 0 ∨ p = 2 ∨ p = 7 ∨ p = 9) ∧ 2 < x p / meanHigh x

theorem earlyTroughFails_iff : EarlyTroughFails x ↔ x 2 ≤ x 3 ∨ x 2 ≤ x 4 ∨ x 2 ≤ x 5 ∨ x 2 ≤ x 6 := by
  constructor
  · rintro ⟨k, hlo, hhi, hk⟩
    interval_cases k <;> simp [hk]
  · rintro (h | h | h | h)
    exacts [⟨3, by decide, by decide, h⟩, ⟨4, by decide, by decide, h⟩, ⟨5, by decide, by decide, h⟩,
      ⟨6, by decide, by decide, h⟩]

theorem lateTroughFails_iff : LateTroughFails x ↔
    x 9 ≤ x 10 ∨ x 9 ≤ x 11 ∨ x 9 ≤ x 12 ∨ x 9 ≤ x 13 ∨ x 9 ≤ x 14 ∨ x 9 ≤ x 15 := by
  constructor
  · rintro ⟨k, hlo, hhi, hk⟩
    interval_cases k <;> simp [hk]
  · rintro (h | h | h | h | h | h)
    exacts [⟨10, by decide, by decide, h⟩, ⟨11, by decide, by decide, h⟩, ⟨12, by decide, by decide, h⟩,
      ⟨13, by decide, by decide, h⟩, ⟨14, by decide, by decide, h⟩, ⟨15, by decide, by decide, h⟩]

theorem not_earlyTroughFails_iff : ¬ EarlyTroughFails x ↔ ∀ k, 3 ≤ k → k ≤ 6 → x k < x 2 := by
  simp only [EarlyTroughFails, not_exists, not_and, Nat.not_le]

theorem not_lateTroughFails_iff : ¬ LateTroughFails x ↔ ∀ k, 10 ≤ k → k ≤ 15 → x k < x 9 := by
  simp only [LateTroughFails, not_exists, not_and, Nat.not_le]

theorem noiseCheckFails_iff : NoiseCheckFails x ↔
    x 0 / meanHigh x > 2 ∨ x 2 / meanHigh x > 2 ∨ x 7 / meanHigh x > 2 ∨ x 9 / meanHigh x > 2 := by
  simp [NoiseCheckFails]

theorem structurallyAccepted_iff : structurallyAccepted x ↔ x 1 < x 0 ∧ x 1 < x 2 ∧ ¬ EarlyTroughFails x ∧
    x 6 < x 7 ∧ x 8 < x 7 ∧ x 8 < x 9 ∧ ¬ LateTroughFails x := by
  rw [not_earlyTroughFails_iff, not_lateTroughFails_iff]
  rfl

/-- Each peak of a structurally accepted window exceeds another sample, so their mean is at least 1 (R153). -/
theorem one_le_meanHigh (h : structurallyAccepted x) : 1 ≤ meanHigh x := by
  obtain ⟨h0, h2, _, h7, _, h9, _⟩ := h
  unfold meanHigh
  omega

open Classical in
/-- The verdict as one chain of conditions; the mean's zero test of R153 never decides (R151, R152). -/
theorem verdict_eq_chain (x : Nat → Nat) : verdict x =
    if x 0 ≤ x 1 then 1 else if x 2 ≤ x 1 then 2 else if EarlyTroughFails x then 3 else if x 7 ≤ x 6 then 4
    else if x 7 ≤ x 8 then 5 else if x 9 ≤ x 8 then 6 else if LateTroughFails x then 7
    else if NoiseCheckFails x then 8 else 0 := by
  simp only [verdict, ge_iff_le, ← earlyTroughFails_iff, ← lateTroughFails_iff, ← noiseCheckFails_iff]
  by_cases hs : structurallyAccepted x
  · rw [if_neg (Nat.ne_of_gt (one_le_meanHigh hs) : ¬ meanHigh x = 0)]
  · simp only [structurallyAccepted_iff, ← Nat.not_le] at hs
    split_ifs <;> simp_all

/-- Among the structurally accepted windows the noise check alone decides (R152). -/
theorem verdict_eq_eight_iff : verdict x = 8 ↔ structurallyAccepted x ∧ NoiseCheckFails x := by
  rw [verdict_eq_chain, structurallyAccepted_iff]
  simp only [← Nat.not_le]
  split_ifs <;> simp [*]

theorem verdict_eq_zero_iff : verdict x = 0 ↔ structurallyAccepted x ∧ ¬ NoiseCheckFails x := by
  rw [verdict_eq_chain, structurallyAccepted_iff]
  simp only [← Nat.not_le]
  split_ifs <;> simp [*]

theorem verdict_le_eight (x : Nat → Nat) : verdict x ≤ 8 := by
  rw [verdict_eq_chain]
  split_ifs <;> decide

theorem not_noiseCheckFails_iff :
    ¬ NoiseCheckFails x ↔ ∀ p, (p = 0 ∨ p = 2 ∨ p = 7 ∨ p = 9) → x p / meanHigh x ≤ 2 := by
  simp only [NoiseCheckFails, not_exists, not_and, Nat.not_lt]

/-! ### The noise check at its thresholds (R154) -/

theorem two_lt_div_iff (a : Nat) {m : Nat} (hm : 1 ≤ m) : 2 < a / m ↔ 3 * m ≤ a :=
  Nat.le_div_iff_mul_le hm

theorem meanHigh_preambleWithFirst (a : Nat) : meanHigh (preambleWithFirst a) = (a + 10800) / 4 := by
  simp [meanHigh, preambleWithFirst]

/-- The canonical preamble passes the structural test whenever its first sample exceeds its second. -/
theorem structurallyAccepted_preambleWithFirst {a : Nat} (h : 360 < a) :
    structurallyAccepted (preambleWithFirst a) := by
  have trough : (360 : Nat) < 3600 := by decide
  refine ⟨h, trough, fun k hlo hhi => ?_, trough, trough, trough, fun k hlo hhi => ?_⟩
  all_goals interval_cases k <;> exact trough

/-- With a first sample above 360 the mean is at least 2790, so only the first sample can exceed twice the mean. -/
theorem noiseCheckFails_preambleWithFirst {a : Nat} (h : 360 < a) :
    NoiseCheckFails (preambleWithFirst a) ↔ 3 * ((a + 10800) / 4) ≤ a := by
  have hm : 1 ≤ (a + 10800) / 4 := by omega
  have hpeak : ¬ 2 < 3600 / ((a + 10800) / 4) := by
    rw [two_lt_div_iff _ hm]
    omega
  simp [noiseCheckFails_iff, meanHigh_preambleWithFirst, preambleWithFirst, hpeak, two_lt_div_iff _ hm]

/-! ### PTEST -/

theorem exec_ptest {c off : Nat} (ready : SequenceReady c s) (hoff : off + 16 ≤ s.seqLen) :
    exec (.ptest c off) s = .next (ptestBody off s) :=
  exec_of_checks_pass (by simp [commandChecks, sequenceChecks_pass ready, hoff])

end Sys2Proof.Machine

namespace Sys2Proof

open Machine

/-- Settles O34, condition by condition along the chain. -/
theorem verdictIsTheFirstFailingCondition : Obligations.VerdictIsTheFirstFailingCondition := by
  intro x
  have early : (∃ k, 3 ≤ k ∧ k ≤ 6 ∧ x 2 ≤ x k) ↔ EarlyTroughFails x := Iff.rfl
  have late : (∃ k, 10 ≤ k ∧ k ≤ 15 ∧ x 9 ≤ x k) ↔ LateTroughFails x := Iff.rfl
  have lower : (∀ k, 3 ≤ k → k ≤ 6 → ¬ x 2 ≤ x k) ↔ ¬ EarlyTroughFails x := by
    simp only [EarlyTroughFails, not_exists, not_and]
  refine ⟨?_, ?_, ?_, ?_, ?_, ?_, ?_, verdict_eq_eight_iff, verdict_le_eight x⟩
  all_goals
    simp only [verdict_eq_chain, early, lower, late, ← Nat.not_le]
    split_ifs <;> simp [*]

/-- Settles O33. -/
theorem verdictAcceptsExactly : Obligations.VerdictAcceptsExactly := by
  intro x
  refine ⟨?_, fun hs hn => verdict_eq_eight_iff.2 ⟨hs, hn⟩, one_le_meanHigh⟩
  rw [verdict_eq_zero_iff, not_noiseCheckFails_iff]
  rfl

/-- Settles O35: beyond 360 the first sample is accepted exactly when it lies below three times the mean. -/
theorem noiseCheckThresholds : Obligations.NoiseCheckThresholds := by
  have rejected {a : Nat} (h : 360 < a) (hm : 3 * ((a + 10800) / 4) ≤ a) : verdict (preambleWithFirst a) = 8 :=
    verdict_eq_eight_iff.2 ⟨structurallyAccepted_preambleWithFirst h, (noiseCheckFails_preambleWithFirst h).2 hm⟩
  have accepted {a : Nat} (h : 360 < a) (hm : a < 3 * ((a + 10800) / 4)) : verdict (preambleWithFirst a) = 0 :=
    verdict_eq_zero_iff.2 ⟨structurallyAccepted_preambleWithFirst h,
      fun hn => Nat.not_le.2 hm ((noiseCheckFails_preambleWithFirst h).1 hn)⟩
  refine ⟨fun a m => two_lt_div_iff a, meanHigh_preambleWithFirst _, meanHigh_preambleWithFirst _,
    meanHigh_preambleWithFirst _, meanHigh_preambleWithFirst _, fun a ha => if_pos ha,
    fun a hlo hhi => accepted hlo (by omega), rejected (by decide) (by decide), accepted (by decide) (by decide),
    accepted (by decide) (by decide), rejected (by decide) (by decide), rejected (by decide) (by decide),
    accepted (by decide) (by decide), fun a hlo hhi => rejected (by omega) (by omega)⟩

/-- Settles O36: PTEST's checks pass, and a verdict fits RESULT. -/
theorem ptestReportsTheVerdict : Obligations.PtestReportsTheVerdict := by
  intro c off s ready hoff
  refine ⟨_, exec_ptest ready hoff, rfl, ?_⟩
  have hle : verdict (s.window off) ≤ 8 := verdict_le_eight _
  exact Nat.mod_eq_of_lt (Nat.lt_of_le_of_lt hle (by decide))

end Sys2Proof
end

section
/-! PROOFS. The scan and its deliveries (spec/42_scan.md R155 to R161, R165): where SCAN, PROC and the consumer's Answer
stop, what they leave, and how many answers end a scan. -/

namespace Sys2Proof.Machine

variable {s : State} {e : Engine}

/-! ### Commands that scan -/

theorem exec_scan {c : Nat} (ready : SequenceReady c s) : exec (.scan c) s = .next (scanBody c s) :=
  exec_of_checks_pass ((firstFault_sequenceChecks_eq_none c s).2 ready)

theorem exec_proc {c n : Nat} (ready : ConvertReady c n s) : exec (.proc c n) s = .next (procBody c n s) :=
  exec_of_checks_pass (convertChecks_pass ready)

/-- SCAN begins at index 0 with nothing accepted; what it meets on the way to an accepted window leaves no trace. -/
theorem scanBody_accept {c j : Nat} (hj : j + Config.scanWindow < s.seqLen) (hv : verdict (s.window j) = 0)
    (hbefore : ∀ k, k < j → verdict (s.window k) ≠ 0) :
    scanBody c s = acceptWindow { ctx := c, i := j, acc := 0, phase := .scanning } s :=
  scanRun_accept (Nat.zero_le j) hj hv fun k _ => hbefore k

theorem scanBody_end {c : Nat} (hnone : ∀ k, k + Config.scanWindow < s.seqLen → verdict (s.window k) ≠ 0) :
    scanBody c s =
      endScan { ctx := c, i := s.seqLen - Config.scanWindow, acc := 0, phase := .scanning } s := by
  have h := scanRun_end (e := { ctx := c, i := 0, acc := 0, phase := .scanning }) fun k _ => hnone k
  rwa [Nat.zero_max] at h

/-! ### The consumer's answer -/

theorem answered_eq (status : Word) (bits : Nat) (e : Engine) : answered status bits e =
    { ctx := e.ctx
      i := if status = 0 then e.i + Config.pre + 2 * bits else e.i + 1
      acc := if status = 0 then e.acc + 1 else e.acc
      phase := .scanning } := by
  unfold answered
  split <;> rfl

/-- Whatever the answer, the scan goes on behind the index it delivered at (R158). -/
theorem lt_answered_i (status : Word) (bits : Nat) (e : Engine) : e.i < (answered status bits e).i := by
  rw [answered_eq]
  show e.i < if status = 0 then e.i + 16 + 2 * bits else e.i + 1
  split <;> omega

/-- With a delivery pending, the Answer at hand resumes the scan (R158). -/
theorem step_answer {status : Word} {rest : List PortOp} (h : WaitingFor e (.answer status) rest s) :
    step s = .next (scanRun (answered status s.msgLenBits e) (takeInput (.answer status) rest s)) := by
  have hwaiting : s.waiting = some e := waiting_eq_some.2 ⟨h.running, h.waits⟩
  calc step s = portAnswer status (takeInput (.answer status) rest s) :=
        step_operation h.next (waits_of_idle_or_pending (.inr (by rw [hwaiting]; rfl)))
    _ = .next (answerScan status e (takeInput (.answer status) rest s)) := by
        rw [portAnswer, show (takeInput (.answer status) rest s).waiting = some e from hwaiting]

/-! ### What a scan leaves -/

/-- The delivery of an accepted window (R45, R157). -/
theorem pendingDelivery_acceptWindow (e : Engine) (s : State) :
    (acceptWindow e s).pendingDelivery = some
      { bytes := (demodMsg s (e.i + Config.pre)).toList.take (demodBits s (e.i + Config.pre) / 8)
        lengthBytes := demodBits s (e.i + Config.pre) / 8
        handle := (s.ctx e.ctx).handle
        ctx := e.ctx } :=
  rfl

/-- The end of a scan: the slot takes the rest of the sequence as its carry-over and counts what was scanned, SEQ_VALID
and RESULT are written, and the block is idle (R159, R160). -/
theorem endScan_copyback (h : e.ctx < s.numContexts) :
    endScan e s = { s with
      ctxs := s.ctxs.set e.ctx ((endScan e s).ctx e.ctx), seqValid := false, result := e.acc, engine := none } ∧
    ((endScan e s).ctx e.ctx).valid = (s.ctx e.ctx).valid ∧
    ((endScan e s).ctx e.ctx).handle = (s.ctx e.ctx).handle ∧
    ((endScan e s).ctx e.ctx).carryLen = s.seqLen - e.i ∧
    (∀ k, k < s.seqLen - e.i → (endScan e s).carryAt e.ctx k = s.seqAt (e.i + k)) ∧
    ((endScan e s).ctx e.ctx).diagOffset = (s.ctx e.ctx).diagOffset + BitVec.ofNat 64 e.i := by
  have hset : (endScan e s).ctxs = s.ctxs.set e.ctx ((endScan e s).ctx e.ctx) := ctxs_eq_set_ctx h rfl
  have hctx := (ctx_endScan e s e.ctx).trans (if_pos ⟨rfl, h⟩)
  refine ⟨congrArg (fun ctxs => { s with ctxs := ctxs, seqValid := false, result := e.acc, engine := none }) hset,
    ?_, ?_, ?_, fun k hk => ?_, ?_⟩
  case refine_4 => simp [State.carryAt, hctx, hk]
  all_goals rw [hctx]

/-! ### How many answers end a scan -/

/-- A scan that has gone further has fewer windows left to test. -/
theorem windowsLeft_lt {i j : Nat} (hij : i < j) (hi : i + Config.scanWindow < s.seqLen) :
    windowsLeft s j < windowsLeft s i := by
  simp only [windowsLeft] at *
  omega

/-- A running scan stops at a delivery at or behind its index and below the bound of R155, or ends. -/
theorem scanRun_delivers_or_ends (e : Engine) (s : State) :
    (∃ e', (scanRun e s).engine = some e' ∧ e'.phase = .waitConsumer ∧ e.i ≤ e'.i ∧
      e'.i + Config.scanWindow < (scanRun e s).seqLen ∧
      windowsLeft (scanRun e s) e'.i = windowsLeft s e'.i ∧ (scanRun e s).inputs = s.inputs) ∨
    (scanRun e s).engine = none := by
  obtain ⟨j, hij, hj, _, _, heq⟩ | ⟨_, heq⟩ := scanRun_cases e s <;> rw [heq]
  · exact .inl ⟨_, rfl, rfl, hij, hj, rfl, rfl⟩
  · exact .inr rfl

theorem run_succ_of_next {M : Host.Core} {s t : M.State} (h : M.step s = .next t) (k : Nat) :
    M.run (k + 1) s = M.run k t := by
  rw [Host.Core.run, h]

/-- Each answer takes the index at least one further, so as many answers as there are windows left end the scan. -/
theorem run_answers_ends_scan (answers : List Word) {rest : List PortOp} (running : s.engine = some e)
    (waits : e.phase = .waitConsumer) (hi : e.i + Config.scanWindow < s.seqLen)
    (hin : s.inputs = answers.map PortOp.answer ++ rest) (hlen : windowsLeft s e.i ≤ answers.length) :
    ∃ (k : Nat) (t : State), k ≤ windowsLeft s e.i ∧ Host.Core.run core k s = .next t ∧ t.engine = none := by
  have hpos : 0 < windowsLeft s e.i := Nat.sub_pos_of_lt (Nat.lt_sub_of_add_lt hi)
  induction answers generalizing s e with
  | nil => exact absurd hlen (Nat.not_le.2 hpos)
  | cons status answers ih =>
    have hstep := step_answer ⟨hin, running, waits⟩
    obtain ⟨e', running', waits', hle, hi', hleft, hin'⟩ | hend := scanRun_delivers_or_ends
      (answered status s.msgLenBits e) (takeInput (.answer status) (answers.map PortOp.answer ++ rest) s)
    · have hlt := windowsLeft_lt (Nat.lt_of_lt_of_le (lt_answered_i status s.msgLenBits e) hle) hi
      rw [← show _ = windowsLeft s e'.i from hleft] at hlt
      obtain ⟨k, t, hk, hrun, ht⟩ := ih running' waits' hi' hin' (Nat.le_of_lt_succ (Nat.lt_of_lt_of_le hlt hlen))
        (Nat.sub_pos_of_lt (Nat.lt_sub_of_add_lt hi'))
      exact ⟨k + 1, t, Nat.lt_of_le_of_lt hk hlt, (run_succ_of_next (M := core) hstep k).trans hrun, ht⟩
    · exact ⟨1, _, hpos, run_succ_of_next (M := core) hstep 0, hend⟩

end Sys2Proof.Machine

namespace Sys2Proof

open Machine

/-- Settles O39: the checks pass, and the scan stops at the first accepted window. -/
theorem scanDeliversTheFirstAcceptedWindow : Obligations.ScanDeliversTheFirstAcceptedWindow := by
  intro c j s ready hj hv hbefore
  refine ⟨_, exec_scan ready, ?_⟩
  rw [scanBody_accept hj hv hbefore]
  exact ⟨rfl, rfl, pendingDelivery_acceptWindow _ s⟩

/-- Settles O40: the checks pass, the scan ends at the bound, and its copy-back is the rest. -/
theorem scanWithoutMatchCarriesTheRest : Obligations.ScanWithoutMatchCarriesTheRest := by
  intro c s ready idle hnone
  obtain ⟨hframe, hvalid, hhandle, hlen, hcarry, hdiag⟩ :=
    endScan_copyback (s := s) (e := ⟨c, s.seqLen - 240, 0, .scanning⟩) ready.index
  refine ⟨_, (exec_scan ready).trans (congrArg _ (scanBody_end hnone)), ?_⟩
  exact ⟨idle ▸ hframe, hvalid.trans ready.created, hhandle, hlen, fun k hk => hcarry k (hlen ▸ hk), hdiag⟩

/-- Settles O41: the Answer resumes the scan, which stops at the next accepted window. -/
theorem answerReachesTheNextDelivery : Obligations.AnswerReachesTheNextDelivery := by
  intro s e status rest i j h hi hij hj hv hbefore
  have hscan : scanRun (answered status s.msgLenBits e) (takeInput (.answer status) rest s) =
      acceptWindow ⟨e.ctx, j, if status = 0 then e.acc + 1 else e.acc, .scanning⟩
        (takeInput (.answer status) rest s) := by
    rw [answered_eq]
    exact scanRun_accept (hi ▸ hij) hj hv (hi ▸ hbefore)
  exact ⟨_, (step_answer h).trans (congrArg _ hscan), rfl, pendingDelivery_acceptWindow _ _⟩

/-- Settles O42: the Answer resumes the scan, which ends at the bound or where the answer took it. -/
theorem answerEndsTheScan : Obligations.AnswerEndsTheScan := by
  intro s e status rest i stop h hc hi hnone hstop
  have hscan : scanRun (answered status s.msgLenBits e) (takeInput (.answer status) rest s) =
      endScan ⟨e.ctx, stop, if status = 0 then e.acc + 1 else e.acc, .scanning⟩
        (takeInput (.answer status) rest s) := by
    rw [answered_eq, hstop, hi]
    exact scanRun_end (hi ▸ hnone)
  exact ⟨_, (step_answer h).trans (congrArg _ hscan), endScan_copyback hc⟩

/-- Settles O43: after the conversion its sequence is pending, so SCAN's checks pass. -/
theorem procIsConvThenScan : Obligations.ProcIsConvThenScan := by
  intro c n s ready
  exact ⟨_, _, exec_conv ready, exec_scan (sequenceReady_convertBody ready), exec_proc ready⟩

/-- Settles O44: the converted sequence is the carry-over, too short for a window, and the copy-back at index 0 returns
it. -/
theorem procOfAShortBufferKeepsTheCarry : Obligations.ProcOfAShortBufferKeepsTheCarry := by
  intro c n s ready idle hn hcap
  have hconverted : convertedLen c n s = (s.ctx c).carryLen := by
    rw [convertedLen, Nat.div_eq_of_lt hn, Nat.add_zero]
  have hshort : (convertBody c n s).seqLen ≤ Config.scanWindow := hconverted.le.trans hcap
  have hscan : procBody c n s = endScan ⟨c, 0, 0, .scanning⟩ (convertBody c n s) := by
    have hend := scanBody_end (c := c) fun k hk =>
      absurd (Nat.lt_of_le_of_lt (Nat.le_add_left _ k) hk) (Nat.not_lt.2 hshort)
    rwa [Nat.sub_eq_zero_of_le hshort] at hend
  obtain ⟨hframe, hvalid, hhandle, hlen, hcarry, hdiag⟩ :=
    endScan_copyback (s := convertBody c n s) (e := ⟨c, 0, 0, .scanning⟩) ready.index
  refine ⟨_, (exec_proc ready).trans (congrArg _ hscan), hframe.trans ?_, hvalid.trans ready.created, hhandle,
    hlen.trans hconverted, hdiag.trans (BitVec.add_zero _), fun k hk => ?_⟩
  · simp [idle, ready.free, hconverted]
  · rw [hcarry k (Nat.lt_of_lt_of_eq hk hconverted.symm), Nat.zero_add, seqAt_convertBody_of_carried n hk]

/-- Settles O46. -/
theorem scanEndsWhenEveryDeliveryIsAnswered : Obligations.ScanEndsWhenEveryDeliveryIsAnswered :=
  fun _ _ answers _ hrun hphase hi hin hlen => run_answers_ends_scan answers hrun hphase hi hin hlen

end Sys2Proof
end

section
/-! PROOFS. What a scan reads and what it leaves to carry (spec/42_scan.md R163, R164): the verdict and the demodulation
depend on their own samples alone, so nothing at or above SEQ_LEN is read, and no step takes CARRY_LEN above 240. -/

namespace Sys2Proof.Machine

variable {s t : State} {e : Engine}

/-! ### Which samples decide -/

/-- The n samples of `t`'s sequence from q on are those of `s`'s sequence from p on. -/
def SameSamples (s : State) (p : Nat) (t : State) (q n : Nat) : Prop :=
  ∀ k, k < n → t.seqAt (q + k) = s.seqAt (p + k)

/-- Two sequences that agree on a stretch agree on every part of it. -/
theorem SameSamples.part {p q n : Nat} (h : SameSamples s p t q n) (i : Nat) {m : Nat} (him : i + m ≤ n) :
    SameSamples s (p + i) t (q + i) m := fun k hk => by
  rw [Nat.add_assoc, Nat.add_assoc]
  exact h (i + k) (Nat.lt_of_lt_of_le (Nat.add_lt_add_left hk i) him)

/-- The verdict is decided by the window's 16 samples (R150). -/
theorem verdict_congr {x y : Nat → Nat} (h : ∀ k, k < 16 → x k = y k) : verdict x = verdict y := by
  have hxy : (fun k => if k < 16 then x k else 0) = fun k => if k < 16 then y k else 0 := by
    funext k
    split
    · exact h k ‹_›
    · rfl
  calc verdict x = verdict fun k => if k < 16 then x k else 0 := rfl
    _ = verdict fun k => if k < 16 then y k else 0 := by rw [hxy]
    _ = verdict y := rfl

theorem verdict_window_congr {p q : Nat} {n : Nat} (h : SameSamples s p t q n) (hn : 16 ≤ n) :
    verdict (t.window q) = verdict (s.window p) :=
  verdict_congr fun k hk => congrArg BitVec.toNat (h k (Nat.lt_of_lt_of_le hk hn))

theorem ppmBit_congr {p q n k : Nat} (h : SameSamples s p t q n) (hk : 2 * k + 1 < n) :
    t.ppmBit q k = s.ppmBit p k := by
  simp only [State.ppmBit, Nat.add_assoc]
  rw [h (2 * k + 1) hk, h (2 * k) (Nat.lt_of_succ_lt hk)]

theorem packByte_congr {f g : Nat → Bool} (h : ∀ k, k < 8 → f k = g k) : packByte f = packByte g := by
  have hfg : (fun k => if k < 8 then f k else false) = fun k => if k < 8 then g k else false := by
    funext k
    split
    · exact h k ‹_›
    · rfl
  calc packByte f = packByte fun k => if k < 8 then f k else false := rfl
    _ = packByte fun k => if k < 8 then g k else false := by rw [hfg]
    _ = packByte g := rfl

/-- The length class is decided by the first pair, the message by the 224 samples of a long one (R181 to R183). -/
theorem demodBits_congr {p q : Nat} (h : SameSamples s p t q Config.longSamples) : demodBits t q = demodBits s p := by
  rw [demodBits, ppmBit_congr h (by decide), demodBits]

theorem demodByte_congr {p q j : Nat} (h : SameSamples s p t q Config.longSamples) (hj : j < 14) :
    demodByte t q j = demodByte s p j := by
  rw [demodByte, demodBits_congr h, demodByte, packByte_congr fun k hk => ppmBit_congr h ?_]
  show _ < 224
  omega

theorem demodMsg_congr {p q : Nat} (h : SameSamples s p t q Config.longSamples) : demodMsg t q = demodMsg s p := by
  have hbyte {j : Nat} (hj : j < 14) := demodByte_congr (j := j) h hj
  simp only [demodMsg, hbyte, Nat.reduceLT]

theorem ofFn_congr {w n : Nat} {f g : Nat → BitVec w} (h : ∀ k, k < n → f k = g k) :
    Mem.ofFn n f = Mem.ofFn n g := by
  have hcells (base m : Nat) (hm : base + m ≤ n) : Mem.cells f base m = Mem.cells g base m := by
    induction m generalizing base with
    | zero => rfl
    | succ m ih => rw [Mem.cells, Mem.cells, h base (by omega), ih (base + 1) (by omega)]
  exact hcells 0 n (by omega)

/-! ### SEQ at or above SEQ_LEN -/

/-- Contents that agree with SEQ below SEQ_LEN agree with it on every stretch there. -/
theorem sameSamples_withSeq {m : Mem 16} (h : ∀ k, k < s.seqLen → ({ s with seq := m } : State).seqAt k = s.seqAt k)
    {i n : Nat} (hin : i + n ≤ s.seqLen) : SameSamples s i { s with seq := m } i n :=
  fun k hk => h (i + k) (Nat.lt_of_lt_of_le (Nat.add_lt_add_left hk i) hin)

theorem acceptWindow_withSeq {m : Mem 16}
    (h : ∀ k, k < s.seqLen → ({ s with seq := m } : State).seqAt k = s.seqAt k)
    (hi : e.i + Config.scanWindow < s.seqLen) :
    acceptWindow e { s with seq := m } = { acceptWindow e s with seq := m } := by
  have hmsg := sameSamples_withSeq h (i := e.i + Config.pre) (n := Config.longSamples) (Nat.le_of_lt hi)
  rw [acceptWindow, acceptWindow, demodulate, demodulate, demodMsg_congr hmsg, demodBits_congr hmsg]

theorem endScan_withSeq {m : Mem 16}
    (h : ∀ k, k < s.seqLen → ({ s with seq := m } : State).seqAt k = s.seqAt k) (e : Engine) :
    endScan e { s with seq := m } = { endScan e s with seq := m } := by
  have hcarry : Mem.ofFn (s.seqLen - e.i) (fun k => ({ s with seq := m } : State).seqAt (e.i + k)) =
      Mem.ofFn (s.seqLen - e.i) (fun k => s.seqAt (e.i + k)) :=
    ofFn_congr fun k hk => h (e.i + k) (Nat.add_lt_of_lt_sub' hk)
  simp only [endScan, copyback, hcarry]
  rfl

/-- A scan reads the samples below SEQ_LEN alone (R164). -/
theorem scanRun_withSeq {m : Mem 16}
    (h : ∀ k, k < s.seqLen → ({ s with seq := m } : State).seqAt k = s.seqAt k) (e : Engine) :
    scanRun e { s with seq := m } = { scanRun e s with seq := m } := by
  have hwindow {k : Nat} (hk : k + Config.scanWindow < s.seqLen) :
      verdict (State.window { s with seq := m } k) = verdict (s.window k) :=
    verdict_window_congr (sameSamples_withSeq h (Nat.le_of_lt hk)) (by decide)
  obtain ⟨j, hij, hj, hv, hbefore, heq⟩ | ⟨hnone, heq⟩ := scanRun_cases e s <;> rw [heq]
  · rw [← acceptWindow_withSeq h hj]
    refine scanRun_accept (s := { s with seq := m }) hij hj ((hwindow hj).trans hv) fun k hk hkj => ?_
    rw [hwindow (Nat.lt_trans (Nat.add_lt_add_right hkj _) hj)]
    exact hbefore k hk hkj
  · rw [← endScan_withSeq h]
    refine scanRun_end fun k hk hkn => ?_
    rw [hwindow hkn]
    exact hnone k hk hkn

/-- SCAN, faulting or not, reads the samples below SEQ_LEN alone. -/
theorem exec_scan_withSeq {c : Nat} {m : Mem 16}
    (h : ∀ k, k < s.seqLen → ({ s with seq := m } : State).seqAt k = s.seqAt k)
    (hx : exec (.scan c) s = .next t) : exec (.scan c) { s with seq := m } = .next { t with seq := m } := by
  rw [exec_eq_checked, Host.Outcome.next.injEq] at hx ⊢
  subst hx
  have hchecks : commandChecks (.scan c) { s with seq := m } = commandChecks (.scan c) s := rfl
  obtain ⟨f, hf, heq⟩ | ⟨hpass, heq⟩ :=
    checked_cases (encode (.scan c)) (commandChecks (.scan c) s) (commandBody (.scan c)) s <;> rw [heq, hchecks]
  · exact checked_fail hf
  · exact (checked_pass hpass).trans (scanRun_withSeq h _)

/-! ### CARRY_LEN -/

/-- Every slot's CARRY_LEN is at most 240 (R35). -/
def CarryBounded (s : State) : Prop :=
  ∀ c, (s.ctx c).carryLen ≤ Config.carryCap

theorem CarryBounded.setCtx (h : CarryBounded s) {c : Nat} {x : Context} (hx : x.carryLen ≤ Config.carryCap) :
    CarryBounded (s.setCtx c x) := fun d => by
  rw [ctx_setCtx]
  split
  · exact hx
  · exact h d

/-- The copy-back at the end of a scan takes at most 240 samples (R163). -/
theorem CarryBounded.scanRun (h : CarryBounded s) (e : Engine) : CarryBounded (scanRun e s) := by
  obtain ⟨j, _, _, _, _, heq⟩ | ⟨_, heq⟩ := scanRun_cases e s <;> rw [heq]
  · exact h
  · refine h.setCtx ?_
    show s.seqLen - max e.i (s.seqLen - 240) ≤ 240
    omega

theorem CarryBounded.commandBody (h : CarryBounded s) (i : Instr) : CarryBounded (commandBody i s) := by
  cases i with
  | ctxnew c => exact h.setCtx (Nat.zero_le _)
  | ctxfree c => exact h.setCtx (Nat.zero_le _)
  | scan c => exact h.scanRun _
  | proc c n => exact CarryBounded.scanRun (s := convertBody c n s) h _
  | icsort => exact icsortBody_keeps CarryBounded s (fun _ => rfl) ▸ h
  | lutinit | lutrd | conv | ptest | demod | icwr | iclen | icfind => exact h

theorem CarryBounded.exec (h : CarryBounded s) {i : Instr} (hx : exec i s = .next t) : CarryBounded t := by
  obtain ⟨f, _, rfl⟩ | ⟨_, rfl⟩ := exec_cases hx
  · exact h
  · exact h.commandBody i

/-- An overrun draws CARRY_LEN within the field's range (log entry 5). -/
theorem CarryBounded.overrun (h : CarryBounded s) (info : Word) (e : Engine) : CarryBounded (overrun info e s) :=
  h.setCtx (Nat.le_of_lt_succ (Config.overrunCarryLen s.tick).isLt)

theorem carryBounded_resetBlock (s : State) : CarryBounded (resetBlock s) := fun c =>
  (congrArg Context.carryLen (ctx_resetWith s.ctxs.length s.maxRawBytes s.icaoCap c)).trans_le (Nat.zero_le _)

theorem Performs.carryBounded {op : PortOp} (hp : Performs s op t) (h : CarryBounded s) : CarryBounded t := by
  cases hp with
  | overran op info e => exact h.overrun info e
  | command w i t _ _ _ runs => exact h.exec runs
  | reset => exact carryBounded_resetBlock s
  | answered status e => exact h.scanRun _
  | ignored | rawRange | rawWritten | argWritten | illegal | readOut => exact h

end Sys2Proof.Machine

namespace Sys2Proof

open Machine

/-- Settles O45: both the Issue of SCAN and an Answer run the scan, which reads below SEQ_LEN alone. -/
theorem scanReadsInsideTheSequence : Obligations.ScanReadsInsideTheSequence := by
  intro c s t m h
  refine ⟨exec_scan_withSeq h, fun e status rest hw hstep => ?_⟩
  have hw' : WaitingFor e (.answer status) rest { s with seq := m } := ⟨hw.next, hw.running, hw.waits⟩
  rw [step_answer hw, Host.Outcome.next.injEq] at hstep
  subst hstep
  exact (step_answer hw').trans
    (congrArg _ (scanRun_withSeq (s := takeInput (.answer status) rest s) h (answered status s.msgLenBits e)))

/-- Settles O57, by the cases of a step: a scan that runs on, no operation, or a port operation. -/
theorem carryLenStaysWithinCapacity : Obligations.CarryLenStaysWithinCapacity := by
  intro s t h hstep
  obtain ⟨e, _, rfl⟩ | rfl | ⟨op, rest, n, _, hp⟩ := step_next_cases hstep
  · exact CarryBounded.scanRun h e
  · exact h
  · exact hp.carryBounded h

end Sys2Proof
end

section
/-! PROOFS. A scan with every delivery answered (spec/42_scan.md R155 to R158, R166), as a relation on the pending
sequence: it is determined, the scan of a stretch continues to one of the whole, and the model's scan satisfies it. -/

namespace Sys2Proof.Machine

variable {s t : State} {consumer : DiagCount → List Byte → Word} {c : Nat}

/-! ### A scan with every delivery answered -/

/-- The delivery of the window at index i of context c's sequence: its stream position and its bytes (R45, R166). -/
def deliveryAt (c : Nat) (s : State) (i : Nat) : DiagCount × List Byte :=
  ((s.ctx c).diagOffset + BitVec.ofNat 64 i,
    (demodMsg s (i + Config.pre)).toList.take (demodBits s (i + Config.pre) / 8))

/-- The index at which the scan goes on after the consumer's answer to the delivery at index i (R158). -/
def indexAfter (consumer : DiagCount → List Byte → Word) (c : Nat) (s : State) (i : Nat) : Nat :=
  if consumer (deliveryAt c s i).1 (deliveryAt c s i).2 = 0 then
    i + Config.pre + 2 * demodBits s (i + Config.pre)
  else i + 1

/-- An answer skips at most a preamble and a long message, 240 samples. -/
theorem indexAfter_le (consumer : DiagCount → List Byte → Word) (c : Nat) (s : State) (i : Nat) :
    indexAfter consumer c s i ≤ i + Config.scanWindow := by
  have hbits := demodBits_legal s (i + Config.pre)
  have hpre : Config.pre = 16 := rfl
  have hwindow : Config.scanWindow = 240 := rfl
  unfold indexAfter
  split <;> omega

/-- `Scans consumer c s i deliveries stop`: scanned from index i with every delivery answered, the sequence of `s` makes
these deliveries and the scan ends at index `stop` (R155 to R158). -/
inductive Scans (consumer : DiagCount → List Byte → Word) (c : Nat) (s : State) :
    Nat → List (DiagCount × List Byte) → Nat → Prop where
  | ends (i : Nat) (bound : s.seqLen ≤ i + Config.scanWindow) : Scans consumer c s i [] i
  | rejects (i : Nat) (deliveries : List (DiagCount × List Byte)) (stop : Nat)
      (below : i + Config.scanWindow < s.seqLen) (rejected : verdict (s.window i) ≠ 0)
      (later : Scans consumer c s (i + 1) deliveries stop) : Scans consumer c s i deliveries stop
  | delivers (i : Nat) (deliveries : List (DiagCount × List Byte)) (stop : Nat)
      (below : i + Config.scanWindow < s.seqLen) (accepted : verdict (s.window i) = 0)
      (later : Scans consumer c s (indexAfter consumer c s i) deliveries stop) :
      Scans consumer c s i (deliveryAt c s i :: deliveries) stop

/-- A scan ends with at most 240 samples left. -/
theorem Scans.seqLen_le {i stop : Nat} {ds : List (DiagCount × List Byte)} (h : Scans consumer c s i ds stop) :
    s.seqLen ≤ stop + Config.scanWindow := by
  induction h with
  | ends i bound => exact bound
  | rejects _ _ _ _ _ _ ih => exact ih
  | delivers _ _ _ _ _ _ ih => exact ih

/-- An accepted message lies inside the sequence, so the scan does not leave it. -/
theorem Scans.stop_le {i stop : Nat} {ds : List (DiagCount × List Byte)} (h : Scans consumer c s i ds stop)
    (hi : i ≤ s.seqLen) : stop ≤ s.seqLen := by
  induction h with
  | ends i bound => exact hi
  | rejects i _ _ below _ _ ih => exact ih (Nat.lt_of_le_of_lt (Nat.add_le_add_left (by decide) i) below).le
  | delivers i _ _ below _ _ ih => exact ih ((indexAfter_le consumer c s i).trans below.le)

/-- The consumer's answers are a function of the deliveries, so the scan is determined (R166). -/
theorem Scans.unique {i stop stop' : Nat} {ds ds' : List (DiagCount × List Byte)} (h : Scans consumer c s i ds stop)
    (h' : Scans consumer c s i ds' stop') : ds = ds' ∧ stop = stop' := by
  induction h generalizing ds' stop' with
  | ends i bound =>
    cases h' with
    | ends => exact ⟨rfl, rfl⟩
    | rejects _ _ _ below | delivers _ _ _ below => exact absurd below (Nat.not_lt.2 bound)
  | rejects i ds stop below rejected later ih =>
    cases h' with
    | ends _ bound => exact absurd below (Nat.not_lt.2 bound)
    | rejects _ _ _ _ _ later' => exact ih later'
    | delivers _ _ _ _ accepted => exact absurd accepted rejected
  | delivers i ds stop below accepted later ih =>
    cases h' with
    | ends _ bound => exact absurd below (Nat.not_lt.2 bound)
    | rejects _ _ _ _ rejected => exact absurd accepted rejected
    | delivers _ _ _ _ _ later' =>
      obtain ⟨rfl, rfl⟩ := ih later'
      exact ⟨rfl, rfl⟩

/-- Windows rejected one after the other take the scan to the index behind them. -/
theorem Scans.of_rejected {i j stop : Nat} {ds : List (DiagCount × List Byte)} (hij : i ≤ j)
    (hbelow : ∀ k, i ≤ k → k < j → k + Config.scanWindow < s.seqLen)
    (hrejected : ∀ k, i ≤ k → k < j → verdict (s.window k) ≠ 0) (h : Scans consumer c s j ds stop) :
    Scans consumer c s i ds stop := by
  induction hij using Nat.decreasingInduction with
  | self => exact h
  | of_succ i hij ih =>
    exact .rejects i ds stop (hbelow i (Nat.le_refl i) hij) (hrejected i (Nat.le_refl i) hij)
      (ih (fun k hk => hbelow k (Nat.le_of_succ_le hk)) (fun k hk => hrejected k (Nat.le_of_succ_le hk)))

/-! ### A stretch of a sequence -/

/-- The pending sequence of `t` is the stretch of that of `s` from index o on, at the same stream positions of
context c. -/
structure Stretch (c o : Nat) (s t : State) : Prop where
  length : o + t.seqLen ≤ s.seqLen
  samples : SameSamples s o t 0 t.seqLen
  position : (t.ctx c).diagOffset = (s.ctx c).diagOffset + BitVec.ofNat 64 o

theorem Stretch.samples_at {o : Nat} (h : Stretch c o s t) {i n : Nat} (hin : i + n ≤ t.seqLen) :
    SameSamples s (o + i) t i n := by
  have hpart := h.samples.part i hin
  rwa [Nat.zero_add] at hpart

theorem Stretch.deliveryAt_eq {o : Nat} (h : Stretch c o s t) {i : Nat} (hi : i + Config.scanWindow < t.seqLen) :
    deliveryAt c t i = deliveryAt c s (o + i) ∧
    demodBits t (i + Config.pre) = demodBits s (o + i + Config.pre) := by
  have hmsg : SameSamples s (o + i + Config.pre) t (i + Config.pre) Config.longSamples :=
    Nat.add_assoc o i _ ▸ h.samples_at (Nat.le_of_lt hi)
  refine ⟨?_, demodBits_congr hmsg⟩
  rw [deliveryAt, deliveryAt, demodBits_congr hmsg, demodMsg_congr hmsg, h.position, BitVec.add_assoc,
    ← BitVec.ofNat_add]

theorem Stretch.indexAfter_eq {o : Nat} (h : Stretch c o s t) {i : Nat} (hi : i + Config.scanWindow < t.seqLen) :
    o + indexAfter consumer c t i = indexAfter consumer c s (o + i) := by
  obtain ⟨hdelivery, hbits⟩ := h.deliveryAt_eq hi
  rw [indexAfter, indexAfter, hdelivery, hbits]
  split <;> omega

theorem Stretch.below {o : Nat} (h : Stretch c o s t) {i : Nat} (hi : i + Config.scanWindow < t.seqLen) :
    o + i + Config.scanWindow < s.seqLen := by
  have := h.length
  omega

theorem Stretch.verdict_eq {o : Nat} (h : Stretch c o s t) {i : Nat} (hi : i + Config.scanWindow < t.seqLen) :
    verdict (t.window i) = verdict (s.window (o + i)) :=
  verdict_window_congr (h.samples_at (Nat.le_of_lt hi)) (by decide)

/-- A scan of a stretch, continued in the whole sequence from where it ended, is a scan of the whole sequence. -/
theorem Scans.append {o i j stop : Nat} {ds ds' : List (DiagCount × List Byte)} (hpart : Stretch c o s t)
    (h : Scans consumer c t i ds j) (h' : Scans consumer c s (o + j) ds' stop) :
    Scans consumer c s (o + i) (ds ++ ds') stop := by
  induction h with
  | ends i bound => exact h'
  | rejects i ds j below rejected later ih =>
    exact .rejects _ _ _ (hpart.below below) (hpart.verdict_eq below ▸ rejected) (ih h')
  | delivers i ds j below accepted later ih =>
    rw [(hpart.deliveryAt_eq below).1]
    refine .delivers _ _ _ (hpart.below below) (hpart.verdict_eq below ▸ accepted) ?_
    rw [← hpart.indexAfter_eq below]
    exact ih h'

/-- A scan of a stretch that reaches the end of the whole sequence. -/
theorem Scans.of_stretch {o i j : Nat} {ds : List (DiagCount × List Byte)} (hpart : Stretch c o s t)
    (hlen : s.seqLen = o + t.seqLen) (h : Scans consumer c t i ds j) : Scans consumer c s (o + i) ds (o + j) := by
  have hbound : s.seqLen ≤ o + j + Config.scanWindow := by
    rw [hlen, Nat.add_assoc]
    exact Nat.add_le_add_left h.seqLen_le o
  have hscans := Scans.append hpart h (.ends _ hbound)
  rwa [List.append_nil] at hscans

/-! ### The model's scan -/

/-- The running command after the consumer's answer to the delivery at its index. -/
def engineAfter (consumer : DiagCount → List Byte → Word) (e : Engine) (s : State) : Engine :=
  answered (consumer (deliveryAt e.ctx s e.i).1 (deliveryAt e.ctx s e.i).2) (demodBits s (e.i + Config.pre))
    { e with phase := .waitConsumer }

theorem engineAfter_ctx (consumer : DiagCount → List Byte → Word) (e : Engine) (s : State) :
    (engineAfter consumer e s).ctx = e.ctx :=
  answered_ctx _ _ _

theorem engineAfter_i (consumer : DiagCount → List Byte → Word) (e : Engine) (s : State) :
    (engineAfter consumer e s).i = indexAfter consumer e.ctx s e.i :=
  congrArg Engine.i (answered_eq _ _ _)

theorem lt_engineAfter_i (consumer : DiagCount → List Byte → Word) (e : Engine) (s : State) :
    e.i < (engineAfter consumer e s).i :=
  lt_answered_i _ _ { e with phase := .waitConsumer }

/-- An accepted window is delivered, and its answer lets the scan go on. -/
theorem answerAll_acceptWindow (consumer : DiagCount → List Byte → Word) (n : Nat) (e : Engine) (s : State) :
    answerAll consumer (n + 1) (acceptWindow e s) =
      (deliveryAt e.ctx s e.i :: (answerAll consumer n (scanRun (engineAfter consumer e s) (acceptWindow e s))).1,
        (answerAll consumer n (scanRun (engineAfter consumer e s) (acceptWindow e s))).2) :=
  rfl

/-- Demodulating a message leaves the pending sequence as it is. -/
theorem stretch_acceptWindow (c : Nat) (e : Engine) (s : State) : Stretch c 0 s (acceptWindow e s) where
  length := (Nat.zero_add _).le
  samples := fun _ _ => rfl
  position := (BitVec.add_zero _).symm

/-- A scan whose deliveries are all answered makes what `Scans` says, and ends with the copy-back at its last index. -/
theorem answerAll_scanRun (n : Nat) (e : Engine) (s : State) (hn : windowsLeft s e.i ≤ n) :
    ∃ ds stop acc msg bits, Scans consumer e.ctx s e.i ds stop ∧ answerAll consumer n (scanRun e s) =
      (ds, endScan ⟨e.ctx, stop, acc, .scanning⟩ { s with msg := msg, msgLenBits := bits }) := by
  induction n using Nat.strong_induction_on generalizing e s with
  | h n ih =>
    obtain ⟨j, hij, hj, hv, hbefore, heq⟩ | ⟨hnone, heq⟩ := scanRun_cases e s <;> rw [heq]
    · have hleft : windowsLeft s j ≤ n := (Nat.sub_le_sub_left hij _).trans hn
      have hpos : 0 < windowsLeft s j := Nat.sub_pos_of_lt (Nat.lt_sub_of_add_lt hj)
      obtain ⟨m, rfl⟩ := Nat.exists_eq_succ_of_ne_zero (Nat.ne_of_gt (hpos.trans_le hleft))
      have hafter := engineAfter_i consumer { e with i := j } s
      have hless : windowsLeft s (engineAfter consumer { e with i := j } s).i < windowsLeft s j :=
        windowsLeft_lt (lt_engineAfter_i consumer { e with i := j } s) hj
      obtain ⟨ds, stop, acc, msg, bits, hscans, hanswers⟩ := ih m (Nat.lt_succ_self m)
        (engineAfter consumer { e with i := j } s) (acceptWindow { e with i := j } s)
        (Nat.le_of_lt_succ (hless.trans_le hleft))
      rw [engineAfter_ctx, hafter] at hscans
      rw [engineAfter_ctx] at hanswers
      have hlater := hscans.of_stretch (stretch_acceptWindow e.ctx _ s) (Nat.zero_add _).symm
      rw [Nat.zero_add, Nat.zero_add] at hlater
      refine ⟨deliveryAt e.ctx s j :: ds, stop, acc, msg, bits, ?_, ?_⟩
      · exact .of_rejected hij (fun k _ hk => Nat.lt_trans (Nat.add_lt_add_right hk _) hj) hbefore
          (.delivers j ds stop hj hv hlater)
      · rw [answerAll_acceptWindow, hanswers]
        rfl
    · refine ⟨[], max e.i (s.seqLen - Config.scanWindow), e.acc, s.msg, s.msgLenBits, ?_,
        answerAll_of_not_waiting consumer n rfl⟩
      have hbelow {k : Nat} (hk : e.i ≤ k) (hk' : k < max e.i (s.seqLen - Config.scanWindow)) :
          k + Config.scanWindow < s.seqLen := by omega
      exact .of_rejected (Nat.le_max_left _ _) (fun k => hbelow) (fun k hk hk' => hnone k hk (hbelow hk hk'))
        (.ends _ (by omega))

end Sys2Proof.Machine
end

section
/-! PROOFS. The carry-over round trip (spec/42_scan.md R166): what one raw buffer makes of its stream, and two buffers
joined to their concatenation. -/

namespace Sys2Proof.Machine

variable {s t : State} {consumer : DiagCount → List Byte → Word} {c : Nat}

/-! ### One raw buffer -/

/-- The block after PROC of a raw buffer of context c's stream has built its sequence (R142, R161, R264). -/
def bufferSequence (c : Nat) (buffer : List Byte) (s : State) : State :=
  convertBody c buffer.length (loadRaw buffer s)

theorem bufferSequence_seqLen (c : Nat) (buffer : List Byte) (s : State) :
    (bufferSequence c buffer s).seqLen = (s.ctx c).carryLen + buffer.length / 2 :=
  rfl

theorem seqAt_bufferSequence_of_carried {k : Nat} (buffer : List Byte) (h : k < (s.ctx c).carryLen) :
    (bufferSequence c buffer s).seqAt k = s.carryAt c k :=
  seqAt_convertBody_of_carried (s := loadRaw buffer s) buffer.length h

theorem seqAt_bufferSequence_of_pair {buffer : List Byte} {p : Nat} (c : Nat) (s : State)
    (h : p < buffer.length / 2) :
    (bufferSequence c buffer s).seqAt ((s.ctx c).carryLen + p) = (loadRaw buffer s).pairMagnitude p :=
  seqAt_convertBody_of_pair c (loadRaw buffer s) h

/-- Pairs of the same bytes have the same magnitude in blocks with the same table. -/
theorem pairMagnitude_congr {p q : Nat} (hlut : t.lut = s.lut) (hepoch : t.epoch = s.epoch)
    (hi : t.rawAt (2 * q) = s.rawAt (2 * p)) (hq : t.rawAt (2 * q + 1) = s.rawAt (2 * p + 1)) :
    t.pairMagnitude q = s.pairMagnitude p := by
  simp only [State.pairMagnitude, State.lutAt, hlut, hepoch, hi, hq]

/-- `t` is the block after PROC of a raw buffer with every delivery answered: these deliveries, and the scan's last
index. -/
structure BufferDone (consumer : DiagCount → List Byte → Word) (c : Nat) (buffer : List Byte) (s : State)
    (ds : List (DiagCount × List Byte)) (stop : Nat) (t : State) : Prop where
  processed : processBuffer consumer c buffer s = some (ds, t)
  scans : Scans consumer c (bufferSequence c buffer s) 0 ds stop
  ended : ∃ acc msg bits,
    t = endScan ⟨c, stop, acc, .scanning⟩ { bufferSequence c buffer s with msg := msg, msgLenBits := bits }

theorem procBody_seqLen (c n : Nat) (s : State) : (procBody c n s).seqLen = convertedLen c n s :=
  scanRun_keeps State.seqLen _ _ (fun _ => rfl) (fun _ => rfl)

theorem exists_bufferDone (consumer : DiagCount → List Byte → Word) {buffer : List Byte}
    (ready : ConvertReady c buffer.length s) : ∃ ds stop t, BufferDone consumer c buffer s ds stop t := by
  obtain ⟨ds, stop, acc, msg, bits, hscans, hanswers⟩ := answerAll_scanRun (consumer := consumer)
    (bufferSequence c buffer s).seqLen ⟨c, 0, 0, .scanning⟩ (bufferSequence c buffer s)
    ((Nat.sub_le _ _).trans (Nat.sub_le _ _))
  refine ⟨ds, stop, _, ?_, hscans, acc, msg, bits, rfl⟩
  rw [processBuffer_of_ready consumer ready, procBody_seqLen]
  exact congrArg some hanswers

section

variable {buffer : List Byte} {ds : List (DiagCount × List Byte)} {stop : Nat}

theorem BufferDone.idle (h : BufferDone consumer c buffer s ds stop t) : t.engine = none := by
  obtain ⟨acc, msg, bits, rfl⟩ := h.ended
  rfl

theorem BufferDone.fault_eq (h : BufferDone consumer c buffer s ds stop t) : t.fault = s.fault := by
  obtain ⟨acc, msg, bits, rfl⟩ := h.ended
  rfl

theorem BufferDone.table_eq (h : BufferDone consumer c buffer s ds stop t) : t.lut = s.lut ∧ t.epoch = s.epoch := by
  obtain ⟨acc, msg, bits, rfl⟩ := h.ended
  exact ⟨rfl, rfl⟩

/-- The slot after a buffer: the copy-back of R159 at the scan's last index. -/
theorem BufferDone.ctx_eq (h : BufferDone consumer c buffer s ds stop t) (hc : c < s.numContexts) :
    t.ctx c = { s.ctx c with
      carry := Mem.ofFn ((bufferSequence c buffer s).seqLen - stop)
        (fun k => (bufferSequence c buffer s).seqAt (stop + k))
      carryLen := (bufferSequence c buffer s).seqLen - stop
      diagOffset := (s.ctx c).diagOffset + BitVec.ofNat 64 stop } := by
  obtain ⟨acc, msg, bits, rfl⟩ := h.ended
  exact (ctx_endScan _ _ c).trans (if_pos ⟨rfl, hc⟩)

theorem BufferDone.carryLen_eq (h : BufferDone consumer c buffer s ds stop t) (hc : c < s.numContexts) :
    (t.ctx c).carryLen = (bufferSequence c buffer s).seqLen - stop := by
  rw [h.ctx_eq hc]

theorem BufferDone.carryAt_eq (h : BufferDone consumer c buffer s ds stop t) (hc : c < s.numContexts) {k : Nat}
    (hk : k < (bufferSequence c buffer s).seqLen - stop) :
    t.carryAt c k = (bufferSequence c buffer s).seqAt (stop + k) := by
  simp [State.carryAt, h.ctx_eq hc, hk]

/-- After a buffer the block is ready for the next one that fits. -/
theorem BufferDone.ready (h : BufferDone consumer c buffer s ds stop t) {n m : Nat} (ready : ConvertReady c n s)
    (hm : m ≤ s.maxRawBytes) : ConvertReady c m t := by
  have hctx := h.ctx_eq ready.index
  obtain ⟨acc, msg, bits, rfl⟩ := h.ended
  exact ⟨(sameParameters_setCtx c _ s).1.symm ▸ ready.index, ready.table, hctx ▸ ready.created, hm, rfl⟩

theorem BufferDone.stop_le (h : BufferDone consumer c buffer s ds stop t) :
    stop ≤ (bufferSequence c buffer s).seqLen :=
  h.scans.stop_le (Nat.zero_le _)

end

/-! ### Two raw buffers -/

theorem rawAt_append_left {left : List Byte} (right : List Byte) (s : State) {k : Nat} (hk : k < left.length) :
    (loadRaw (left ++ right) s).rawAt k = (loadRaw left s).rawAt k := by
  rw [rawAt_loadRaw, rawAt_loadRaw, if_pos hk, if_pos (List.length_append ▸ Nat.lt_add_right _ hk),
    List.getD_append _ _ _ _ hk]

theorem rawAt_append_right (left : List Byte) {right : List Byte} (s t : State) {k : Nat} (hk : k < right.length) :
    (loadRaw (left ++ right) s).rawAt (left.length + k) = (loadRaw right t).rawAt k := by
  rw [rawAt_loadRaw, rawAt_loadRaw, if_pos hk, if_pos (List.length_append ▸ Nat.add_lt_add_left hk _),
    List.getD_append_right _ _ _ _ (Nat.le_add_right _ _), Nat.add_sub_cancel_left]

/-- The first buffer's pairs are the first pairs of both. -/
theorem pairMagnitude_append_left {left : List Byte} (right : List Byte) (s : State) {p : Nat}
    (hp : p < left.length / 2) :
    (loadRaw left s).pairMagnitude p = (loadRaw (left ++ right) s).pairMagnitude p :=
  pairMagnitude_congr rfl rfl (rawAt_append_left right s (by omega)).symm (rawAt_append_left right s (by omega)).symm

/-- Behind a buffer of even length the second buffer's pairs are the next pairs of both. -/
theorem pairMagnitude_append_right {left right : List Byte} (heven : left.length % 2 = 0)
    (htable : t.lut = s.lut ∧ t.epoch = s.epoch) {p : Nat} (hp : p < right.length / 2) :
    (loadRaw right t).pairMagnitude p = (loadRaw (left ++ right) s).pairMagnitude (left.length / 2 + p) := by
  have hpair : 2 * (left.length / 2 + p) = left.length + 2 * p := by omega
  refine pairMagnitude_congr htable.1 htable.2 ?_ ?_
  · rw [hpair, rawAt_append_right left s t (by omega)]
  · rw [hpair, Nat.add_assoc, rawAt_append_right left s t (by omega)]

/-- The first buffer's sequence begins the sequence of both. -/
theorem stretch_left (left right : List Byte) (c : Nat) (s : State) :
    Stretch c 0 (bufferSequence c (left ++ right) s) (bufferSequence c left s) where
  length := by
    rw [bufferSequence_seqLen, bufferSequence_seqLen, List.length_append]
    omega
  samples := fun k hk => by
    rw [bufferSequence_seqLen] at hk
    rw [Nat.zero_add]
    obtain hcarried | hpair := Nat.lt_or_ge k (s.ctx c).carryLen
    · rw [seqAt_bufferSequence_of_carried _ hcarried, seqAt_bufferSequence_of_carried _ hcarried]
    · obtain ⟨p, rfl⟩ := Nat.exists_eq_add_of_le hpair
      have hp : p < left.length / 2 := Nat.lt_of_add_lt_add_left hk
      have hp' : p < (left ++ right).length / 2 := by
        rw [List.length_append]
        omega
      rw [seqAt_bufferSequence_of_pair c s hp, seqAt_bufferSequence_of_pair c s hp',
        pairMagnitude_append_left right s hp]
  position := (BitVec.add_zero _).symm

section

variable {left right : List Byte} {ds : List (DiagCount × List Byte)} {stop : Nat}

/-- Behind a buffer of even length the second sequence ends where the sequence of both does. -/
theorem BufferDone.seqLen_append (h : BufferDone consumer c left s ds stop t) (hc : c < s.numContexts)
    (heven : left.length % 2 = 0) (right : List Byte) :
    (bufferSequence c (left ++ right) s).seqLen = stop + (bufferSequence c right t).seqLen := by
  have hstop := h.stop_le
  rw [bufferSequence_seqLen, bufferSequence_seqLen, h.carryLen_eq hc, List.length_append]
  rw [bufferSequence_seqLen] at hstop ⊢
  omega

/-- The second buffer's sequence, begun with what the first one carried over, is the rest of the sequence of both. -/
theorem BufferDone.stretch_right (h : BufferDone consumer c left s ds stop t) (hc : c < s.numContexts)
    (heven : left.length % 2 = 0) (right : List Byte) :
    Stretch c stop (bufferSequence c (left ++ right) s) (bufferSequence c right t) where
  length := (h.seqLen_append hc heven right).ge
  samples := fun k hk => by
    have hcarryLen := h.carryLen_eq hc
    rw [bufferSequence_seqLen] at hk
    rw [Nat.zero_add]
    obtain hcarried | hpair := Nat.lt_or_ge k (t.ctx c).carryLen
    · have hk' := hcarryLen ▸ hcarried
      have hleft := (stretch_left left right c s).samples (stop + k) (Nat.add_lt_of_lt_sub' hk')
      rw [Nat.zero_add] at hleft
      rw [seqAt_bufferSequence_of_carried _ hcarried, h.carryAt_eq hc hk', hleft]
    · obtain ⟨p, rfl⟩ := Nat.exists_eq_add_of_le hpair
      have hp : p < right.length / 2 := Nat.lt_of_add_lt_add_left hk
      have hp' : left.length / 2 + p < (left ++ right).length / 2 := by
        rw [List.length_append]
        omega
      have hindex : stop + ((t.ctx c).carryLen + p) = (s.ctx c).carryLen + (left.length / 2 + p) := by
        have hstop := h.stop_le
        rw [bufferSequence_seqLen] at hstop hcarryLen
        omega
      rw [hindex, seqAt_bufferSequence_of_pair c t hp, seqAt_bufferSequence_of_pair c s hp',
        pairMagnitude_append_right heven h.table_eq hp]
  position := congrArg Context.diagOffset (h.ctx_eq hc)

/-- Two buffers, the first of even length, make the deliveries and leave the slot of their concatenation. -/
theorem BufferDone.append {ds' both : List (DiagCount × List Byte)} {stop' stopBoth : Nat} {u v : State}
    (h : BufferDone consumer c left s ds stop t) (h' : BufferDone consumer c right t ds' stop' u)
    (hboth : BufferDone consumer c (left ++ right) s both stopBoth v) (hc : c < s.numContexts)
    (hc' : c < t.numContexts) (heven : left.length % 2 = 0) : both = ds ++ ds' ∧ u.ctx c = v.ctx c := by
  have hpart := h.stretch_right hc heven right
  have hlen := h.seqLen_append hc heven right
  have hlater := h'.scans.of_stretch hpart hlen
  have hscans := Scans.append (stretch_left left right c s) h.scans (by rwa [Nat.zero_add])
  obtain ⟨rfl, rfl⟩ := hboth.scans.unique hscans
  have hcarry : Mem.ofFn ((bufferSequence c right t).seqLen - stop')
      (fun k => (bufferSequence c right t).seqAt (stop' + k)) =
      Mem.ofFn ((bufferSequence c right t).seqLen - stop')
        (fun k => (bufferSequence c (left ++ right) s).seqAt (stop + stop' + k)) :=
    ofFn_congr fun k hk => by
      have hsample := hpart.samples (stop' + k) (Nat.add_lt_of_lt_sub' hk)
      rwa [Nat.zero_add, ← Nat.add_assoc] at hsample
  refine ⟨rfl, ?_⟩
  rw [h'.ctx_eq hc', hboth.ctx_eq hc, h.ctx_eq hc, hlen, Nat.add_sub_add_left, hcarry, BitVec.add_assoc,
    ← BitVec.ofNat_add]

end

/-! ### Any number of raw buffers -/

theorem processBuffers_cons {buffer : List Byte} {rest : List (List Byte)} {ds ds' : List (DiagCount × List Byte)}
    {u : State} (h : processBuffer consumer c buffer s = some (ds, t))
    (h' : processBuffers consumer c rest t = some (ds', u)) :
    processBuffers consumer c (buffer :: rest) s = some (ds ++ ds', u) := by
  simp only [processBuffers, h, h']

/-- The buffers one after the other make what their concatenation makes: the first is joined to the concatenation of the
others. -/
theorem processBuffers_flatten (consumer : DiagCount → List Byte → Word) (first : List Byte)
    (rest : List (List Byte)) (heven : ∀ b ∈ (first :: rest).dropLast, b.length % 2 = 0)
    (ready : ConvertReady c (first :: rest).flatten.length s) :
    ∃ ds t stop u, processBuffers consumer c (first :: rest) s = some (ds, t) ∧
      BufferDone consumer c (first :: rest).flatten s ds stop u ∧
      t.engine = none ∧ t.fault = s.fault ∧ t.ctx c = u.ctx c := by
  induction rest generalizing first s with
  | nil =>
    obtain ⟨both, stopBoth, v, hboth⟩ := exists_bufferDone consumer ready
    have hfirst : BufferDone consumer c first s both stopBoth v := by simpa using hboth
    refine ⟨both, v, stopBoth, v, ?_, hboth, hboth.idle, hboth.fault_eq, rfl⟩
    simpa using processBuffers_cons hfirst.processed (rest := []) rfl
  | cons second others ih =>
    have hfits : first.length + (second :: others).flatten.length ≤ s.maxRawBytes := by
      simpa using ready.fits
    obtain ⟨ds, stop, t, hfirst⟩ := exists_bufferDone (buffer := first) consumer { ready with fits := by omega }
    have ready' : ConvertReady c (second :: others).flatten.length t := hfirst.ready ready (by omega)
    obtain ⟨both, stopBoth, v, hboth⟩ := exists_bufferDone consumer ready
    obtain ⟨ds', u, stop', w, hbuffers, hrest, hidle, hfault, hctx⟩ :=
      ih second (fun b hb => heven b (List.mem_cons_of_mem _ hb)) ready'
    obtain ⟨rfl, hslot⟩ := hfirst.append hrest hboth ready.index ready'.index (heven first List.mem_cons_self)
    exact ⟨_, u, _, v, processBuffers_cons hfirst.processed hbuffers, hboth, hidle, hfault.trans hfirst.fault_eq,
      hctx.trans hslot⟩

end Sys2Proof.Machine

namespace Sys2Proof

open Machine

/-- Settles O47: a nonempty list of buffers has a first one. -/
theorem carryOverRoundTrip : Obligations.CarryOverRoundTrip := by
  intro consumer c buffers s hne heven ready
  obtain ⟨first, rest, rfl⟩ := List.exists_cons_of_ne_nil hne
  obtain ⟨ds, t, stop, u, hbuffers, hboth, hidle, hfault, hctx⟩ :=
    processBuffers_flatten consumer first rest heven ready
  exact ⟨ds, t, u, hbuffers, hboth.processed, hidle, hboth.idle, hfault, hboth.fault_eq, hctx⟩

end Sys2Proof
end

section
/-! PROOFS. Demodulation (spec/43_demod.md R180 to R185): the bits of a message, the bytes beyond it, and the samples
that decide it. -/

namespace Sys2Proof.Machine

variable {s t : State}

/-! ### The bits of a message -/

/-- Bit k of eight is bit 7 − k of their byte: it alone has the weight 2^(7 − k) (R182). -/
theorem getLsbD_packByte (bit : Nat → Bool) {k : Nat} (hk : k < 8) : (packByte bit).getLsbD (7 - k) = bit k := by
  have hle (i : Nat) : (bit i).toNat ≤ 1 := Bool.toNat_le _
  have h1 := hle 1
  have h2 := hle 2
  have h3 := hle 3
  have h4 := hle 4
  have h5 := hle 5
  have h6 := hle 6
  have h7 := hle 7
  have hdigit : (128 * (bit 0).toNat + 64 * (bit 1).toNat + 32 * (bit 2).toNat + 16 * (bit 3).toNat
      + 8 * (bit 4).toNat + 4 * (bit 5).toNat + 2 * (bit 6).toNat + (bit 7).toNat) / 2 ^ (7 - k) % 2 =
      (bit k).toNat := by
    have hk' := hle k
    interval_cases k <;> simp only [Nat.reduceSub, Nat.reducePow] <;> omega
  rw [packByte, BitVec.getLsbD_ofNat, Nat.testBit_eq_decide_div_mod_eq, hdigit]
  have hpos : 7 - k < 8 := by omega
  cases bit k <;> simp [hpos]

theorem getD_demodMsg (s : State) (p : Nat) {j : Nat} (hj : j < 14) :
    (demodMsg s p).toList.getD j 0 = demodByte s p j := by
  interval_cases j <;> rfl

/-- Bit k of a message is the decision of its pair, at its place in byte k div 8 (R180, R182). -/
theorem getLsbD_demodMsg {p k : Nat} (hk : k < demodBits s p) :
    ((demodMsg s p).toList.getD (k / 8) 0).getLsbD (7 - k % 8) = s.ppmBit p k := by
  have hbits := demodBits_legal s p
  have hbyte : k / 8 < 14 := by omega
  have hwithin : 8 * (k / 8) < demodBits s p := Nat.lt_of_le_of_lt (Nat.mul_div_le k 8) hk
  rw [getD_demodMsg s p hbyte, demodByte, if_pos hwithin, getLsbD_packByte _ (Nat.mod_lt k (by decide)),
    Nat.div_add_mod]

/-- The bytes beyond a message's length are 0 (R182). -/
theorem getD_demodMsg_of_beyond {p j : Nat} (hbeyond : demodBits s p / 8 ≤ j) (hj : j < 14) :
    (demodMsg s p).toList.getD j 0 = 0 := by
  have hbits := demodBits_legal s p
  rw [getD_demodMsg s p hj, demodByte, if_neg (by omega)]

theorem exec_demod {c off : Nat} (ready : SequenceReady c s) (hoff : off + Config.longSamples ≤ s.seqLen) :
    exec (.demod c off) s = .next (demodBody off s) :=
  exec_of_checks_pass (by simp [commandChecks, sequenceChecks_pass ready, hoff])

/-! ### The samples a message is decided by -/

/-- A length class is decided by its own first pair (R181, R185). -/
theorem demodBits_eq_of_ownSamples {p q : Nat} (h : SameSamples s p t q (2 * demodBits s p)) :
    demodBits t q = demodBits s p := by
  have hbits := demodBits_legal s p
  have hfirst : t.ppmBit q 0 = s.ppmBit p 0 := ppmBit_congr h (by omega)
  rw [demodBits, hfirst, demodBits]

/-- A byte within the message is decided by eight of its pairs, and one beyond it by the length alone (R182, R185). -/
theorem demodByte_eq_of_ownSamples {p q : Nat} (h : SameSamples s p t q (2 * demodBits s p)) (j : Nat) :
    demodByte t q j = demodByte s p j := by
  have hbits := demodBits_legal s p
  rw [demodByte, demodByte, demodBits_eq_of_ownSamples h]
  split
  · exact packByte_congr fun k hk => ppmBit_congr h (by omega)
  · rfl

theorem demodMsg_eq_of_ownSamples {p q : Nat} (h : SameSamples s p t q (2 * demodBits s p)) :
    demodMsg t q = demodMsg s p := by
  simp only [demodMsg, demodByte_eq_of_ownSamples h]

end Sys2Proof.Machine

namespace Sys2Proof

open Machine

/-- Settles O37: DEMOD's checks pass, and its body writes the message, its length and RESULT. -/
theorem demodDecodesTheMessage : Obligations.DemodDecodesTheMessage := by
  intro c off s ready hoff
  have hlength : demodBits s off = if (s.seqAt (off + 1)).toNat < (s.seqAt off).toNat then 112 else 56 := by
    simp [demodBits, State.ppmBit]
  exact ⟨_, exec_demod ready hoff, rfl, hlength, fun _ => getLsbD_demodMsg, fun _ => getD_demodMsg_of_beyond⟩

/-- Settles O38: the samples of the message at p are a stretch both sequences share. -/
theorem demodReadsOnlyItsSamples : Obligations.DemodReadsOnlyItsSamples := by
  intro s t p h
  have hsame : SameSamples s p t p (2 * demodBits s p) := fun k hk =>
    h (p + k) (Nat.le_add_right p k) (Nat.add_lt_add_left hk p)
  exact ⟨demodBits_eq_of_ownSamples hsame, demodMsg_eq_of_ownSamples hsame⟩

end Sys2Proof
end

section
/-! PROOFS. The ICAO address list (spec/44_icao.md R200 to R207): its loading, the sort's walk and the bisecting search. -/

namespace Sys2Proof.Machine

variable {s t : State}

/-! ### The list -/

theorem mem_icaoList {a : Word} {n : Nat} : a ∈ s.icaoList n ↔ ∃ k < n, s.icaoAt k = a := by
  simp [State.icaoList]

@[simp] theorem length_icaoList (s : State) (n : Nat) : (s.icaoList n).length = n := by
  simp [State.icaoList]

/-- The list is ascending exactly when its entries rise with their index. -/
theorem ascending_icaoList_iff {n : Nat} :
    ascending (s.icaoList n) ↔ ∀ j k, j < k → k < n → (s.icaoAt j).toNat ≤ (s.icaoAt k).toNat := by
  rw [ascending, State.icaoList, List.pairwise_map, List.pairwise_iff_getElem]
  simp only [List.length_range, List.getElem_range]
  exact ⟨fun h j k hjk hk => h j k (by omega) hk hjk, fun h j k _ hk hjk => h j k hjk hk⟩

/-- An entry is its contents or the free value of its epoch (U5). -/
theorem icaoAt_congr {k : Nat} (hfind : t.icao.find k = s.icao.find k) (hepoch : t.epoch = s.epoch) :
    t.icaoAt k = s.icaoAt k := by
  rw [State.icaoAt, hfind, hepoch, State.icaoAt]

theorem find_icwrBody (idx k : Nat) (s : State) :
    (icwrBody idx s).icao.find k = if k = idx then some s.arg else s.icao.find k :=
  find_write s.icao idx k s.arg

/-! ### Commands whose checks pass -/

theorem exec_icwr {idx : Nat} (hidx : idx < s.icaoCap) : exec (.icwr idx) s = .next (icwrBody idx s) :=
  exec_of_checks_pass (by simp [commandChecks, hidx])

theorem exec_iclen {len : Nat} (hlen : len ≤ s.icaoCap) : exec (.iclen len) s = .next (iclenBody len s) :=
  exec_of_checks_pass (by simp [commandChecks, hlen])

theorem exec_icsort (nonempty : s.icaoLen ≠ 0) : exec .icsort s = .next (icsortBody s) :=
  exec_of_checks_pass (by simp [commandChecks, nonempty])

theorem exec_icfind (nonempty : s.icaoLen ≠ 0) : exec .icfind s = .next (icfindBody s) :=
  exec_of_checks_pass (by simp [commandChecks, nonempty])

/-! ### Inversions: what bounds the sort's walk (R204) -/

/-- The number of pairs of a list that stand in descending order. -/
def inversions : List Word → Nat
  | [] => 0
  | x :: rest => rest.countP (fun y => decide (y.toNat < x.toNat)) + inversions rest

/-- Swapping a descending neighbouring pair removes one inversion. -/
theorem inversions_swap {x y : Word} (hxy : y.toNat < x.toNat) (front back : List Word) :
    inversions (front ++ y :: x :: back) + 1 = inversions (front ++ x :: y :: back) := by
  induction front with
  | nil =>
    have hyx : ¬ x.toNat < y.toNat := by omega
    simp only [List.nil_append, inversions, List.countP_cons, decide_eq_true_eq, if_pos hxy, if_neg hyx]
    omega
  | cons z front ih =>
    have hperm : (front ++ y :: x :: back).Perm (front ++ x :: y :: back) := (List.Perm.swap x y back).append_left front
    simp only [List.cons_append, inversions, hperm.countP_eq]
    omega

/-- A list of n has at most n·(n − 1)/2 inversions. -/
theorem two_mul_inversions_add_length_le (l : List Word) : 2 * inversions l + l.length ≤ l.length * l.length := by
  induction l with
  | nil => simp [inversions]
  | cons x rest ih =>
    have hcount := List.countP_le_length (p := fun y : Word => decide (y.toNat < x.toNat)) (l := rest)
    simp only [inversions, List.length_cons, Nat.add_mul, Nat.mul_add]
    omega

/-! ### The sort's walk -/

/-- A swap at a position inside the list exchanges two neighbours of it. -/
theorem icaoList_swapEntries {i n : Nat} (hi : 1 ≤ i) (hin : i < n) (s : State) :
    ∃ front back, s.icaoList n = front ++ s.icaoAt (i - 1) :: s.icaoAt i :: back ∧
      (swapEntries i s).icaoList n = front ++ s.icaoAt i :: s.icaoAt (i - 1) :: back := by
  obtain ⟨j, rfl⟩ : ∃ j, i = j + 1 := ⟨i - 1, by omega⟩
  obtain ⟨m, rfl⟩ : ∃ m, n = j + (m + 2) := ⟨n - (j + 2), by omega⟩
  have hlist (u : State) : u.icaoList (j + (m + 2)) = (List.range j).map u.icaoAt ++
      u.icaoAt j :: u.icaoAt (j + 1) :: (List.range m).map (fun k => u.icaoAt (j + (k + 2))) := by
    simp [State.icaoList, List.range_add, List.range_succ_eq_map, Function.comp_def]
  refine ⟨_, _, hlist s, ?_⟩
  rw [hlist]
  congr 1
  · refine List.map_congr_left fun k hk => ?_
    have hkj : k < j := List.mem_range.1 hk
    rw [icaoAt_swapEntries, if_neg (by omega), if_neg (by omega)]
  · simp [icaoAt_swapEntries]

/-- Whatever the walk does, it permutes the list. -/
theorem sortWalk_perm (steps : Nat) {i : Nat} (hi : 1 ≤ i) (s : State) :
    ((sortWalk steps i s).icaoList s.icaoLen).Perm (s.icaoList s.icaoLen) := by
  induction steps generalizing i s with
  | zero => exact .rfl
  | succ steps ih =>
    rw [sortWalk]
    split
    · next hin =>
      split
      · have hback : 1 ≤ if i > 1 then i - 1 else i := by split <;> omega
        obtain ⟨front, back, hs, ht⟩ := icaoList_swapEntries hi hin s
        refine (ih hback (swapEntries i s)).trans ?_
        rw [swapEntries_icaoLen, hs, ht]
        exact (List.Perm.swap _ _ _).append_left front
      · exact ih (by omega) s
    · exact .rfl

/-- The part before the walk's position grows by an entry that is not below its neighbour. -/
theorem ascending_icaoList_succ {i : Nat} (h : ascending (s.icaoList i))
    (hle : (s.icaoAt (i - 1)).toNat ≤ (s.icaoAt i).toNat) : ascending (s.icaoList (i + 1)) := by
  rw [ascending_icaoList_iff] at h ⊢
  intro j k hjk hk
  obtain hki | rfl : k < i ∨ k = i := by omega
  · exact h j k hjk hki
  · obtain hj | rfl : j < k - 1 ∨ j = k - 1 := by omega
    · exact (h j (k - 1) hj (by omega)).trans hle
    · exact hle

theorem ascending_icaoList_of_le {m n : Nat} (h : ascending (s.icaoList n)) (hmn : m ≤ n) :
    ascending (s.icaoList m) := by
  rw [ascending_icaoList_iff] at h ⊢
  exact fun j k hjk hk => h j k hjk (by omega)

/-- After a swap the part before the position the walk steps back to is ascending still; before position 1 there is one
entry. -/
theorem ascending_icaoList_swapEntries {i : Nat} (h : ascending (s.icaoList i)) :
    ascending ((swapEntries i s).icaoList (if i > 1 then i - 1 else i)) := by
  rw [ascending_icaoList_iff] at h ⊢
  intro j k hjk hk
  have hki : k < i - 1 := by split at hk <;> omega
  rw [icaoAt_swapEntries, if_neg (by omega), if_neg (by omega), icaoAt_swapEntries, if_neg (by omega),
    if_neg (by omega)]
  exact h j k hjk (by omega)

/-- A walk at position i whose front part is ascending sorts the list within n − i + 2·(inversions) steps (R204): a swap
removes an inversion and steps back by at most one, every other step goes forward. -/
theorem ascending_sortWalk {steps i : Nat} (hi : 1 ≤ i) {s : State} (hfront : ascending (s.icaoList i))
    (hsteps : s.icaoLen + 2 * inversions (s.icaoList s.icaoLen) ≤ steps + i) :
    ascending ((sortWalk steps i s).icaoList s.icaoLen) := by
  induction steps generalizing i s with
  | zero => exact ascending_icaoList_of_le hfront (by omega)
  | succ steps ih =>
    rw [sortWalk]
    split
    · next hin =>
      split
      · next hinv =>
        obtain ⟨front, back, hs, ht⟩ := icaoList_swapEntries hi hin s
        have hfewer := inversions_swap hinv front back
        rw [← hs, ← ht] at hfewer
        have hback : 1 ≤ (if i > 1 then i - 1 else i) ∧ i ≤ (if i > 1 then i - 1 else i) + 1 := by split <;> omega
        refine ih hback.1 (ascending_icaoList_swapEntries hfront) ?_
        rw [swapEntries_icaoLen]
        omega
      · next hle => exact ih (by omega) (ascending_icaoList_succ hfront (Nat.le_of_not_gt hle)) (by omega)
    · exact ascending_icaoList_of_le hfront (by omega)

/-- A walk over an ascending list changes nothing (R271). -/
theorem sortWalk_of_ascending (steps : Nat) {i : Nat} (hi : 1 ≤ i) (h : ascending (s.icaoList s.icaoLen)) :
    sortWalk steps i s = s := by
  induction steps generalizing i with
  | zero => rfl
  | succ steps ih =>
    rw [sortWalk]
    split
    · next hin =>
      have hle := ascending_icaoList_iff.1 h (i - 1) i (by omega) hin
      rw [if_neg (Nat.not_lt.2 hle), ih (by omega)]
    · rfl

/-! ### ICSORT -/

@[simp] theorem icsortBody_icaoLen (s : State) : (icsortBody s).icaoLen = s.icaoLen :=
  icsortBody_keeps State.icaoLen s fun _ => rfl

@[simp] theorem icsortBody_arg (s : State) : (icsortBody s).arg = s.arg :=
  icsortBody_keeps State.arg s fun _ => rfl

@[simp] theorem icsortBody_epoch (s : State) : (icsortBody s).epoch = s.epoch :=
  icsortBody_keeps State.epoch s fun _ => rfl

theorem icsortBody_perm (s : State) : ((icsortBody s).icaoList s.icaoLen).Perm (s.icaoList s.icaoLen) :=
  sortWalk_perm _ (le_refl 1) s

/-- n·n steps are enough for the walk (R204). -/
theorem ascending_icsortBody (s : State) : ascending ((icsortBody s).icaoList s.icaoLen) := by
  have hbound := two_mul_inversions_add_length_le (s.icaoList s.icaoLen)
  rw [length_icaoList] at hbound
  have hone : ascending (s.icaoList 1) := List.pairwise_singleton _ _
  exact ascending_sortWalk (le_refl 1) hone (by omega)

theorem find_icsortBody_of_beyond {k : Nat} (hk : s.icaoLen ≤ k) : (icsortBody s).icao.find k = s.icao.find k := by
  obtain ⟨_, hfind, _, _⟩ := sortWalk_frame (s.icaoLen * s.icaoLen) 1 s
  exact hfind k hk

/-! ### The search -/

/-- Which half of an ascending list's window holds an address that its middle entry is not: the upper one exactly when the
address exceeds the middle entry (R206). -/
theorem lt_index_iff_of_ascending {n k m : Nat} {a : Word} (h : ascending (s.icaoList n)) (hk : k < n) (hm : m < n)
    (hka : s.icaoAt k = a) (hma : s.icaoAt m ≠ a) : m < k ↔ (s.icaoAt m).toNat < a.toNat := by
  rw [ascending_icaoList_iff] at h
  subst hka
  have hne : (s.icaoAt m).toNat ≠ (s.icaoAt k).toNat := fun e => hma (BitVec.eq_of_toNat_eq e)
  rcases lt_trichotomy m k with hmk | rfl | hkm
  · have := h m k hmk hk
    omega
  · exact absurd rfl hma
  · have := h k m hkm hm
    omega

/-- On an ascending list the search of a nonempty window finds exactly the addresses the window holds (R206). -/
theorem bisect_eq_true_iff {n : Nat} {a : Word} (hasc : ascending (s.icaoList n)) {steps base len : Nat}
    (hpos : 0 < len) (hsteps : len ≤ steps) (hn : base + len ≤ n) :
    bisect s a steps base len = true ↔ ∃ k, base ≤ k ∧ k < base + len ∧ s.icaoAt k = a := by
  induction steps generalizing base len with
  | zero => omega
  | succ steps ih =>
    rw [bisect]
    split
    · next hhit =>
      refine iff_of_true rfl ?_
      rcases hhit with hmid | hfirst | hlast
      · exact ⟨base + len / 2, by omega, by omega, hmid⟩
      · exact ⟨base, by omega, by omega, hfirst⟩
      · exact ⟨base + len - 1, by omega, by omega, hlast⟩
    · next hmiss =>
      obtain ⟨hmid, hfirst, hlast⟩ : s.icaoAt (base + len / 2) ≠ a ∧ s.icaoAt base ≠ a ∧
          s.icaoAt (base + len - 1) ≠ a := by simpa using hmiss
      have hside {k : Nat} (hk : k < base + len) (hka : s.icaoAt k = a) :=
        lt_index_iff_of_ascending hasc (by omega) (by omega) hka hmid
      split
      · next hshort =>
        refine iff_of_false Bool.false_ne_true ?_
        rintro ⟨k, hbase, hk, hka⟩
        obtain rfl | rfl : k = base ∨ k = base + len - 1 := by omega
        · exact hfirst hka
        · exact hlast hka
      · split
        · next hupper =>
          rw [ih (by omega) (by omega) (by omega)]
          constructor
          · rintro ⟨k, hbase, hk, hka⟩
            exact ⟨k, by omega, by omega, hka⟩
          · rintro ⟨k, hbase, hk, hka⟩
            have := (hside hk hka).2 hupper
            exact ⟨k, by omega, by omega, hka⟩
        · next hlower =>
          rw [ih (by omega) (by omega) (by omega)]
          constructor
          · rintro ⟨k, hbase, hk, hka⟩
            exact ⟨k, by omega, by omega, hka⟩
          · rintro ⟨k, hbase, hk, hka⟩
            have hnot : ¬ base + len / 2 < k := fun hlt => hlower ((hside hk hka).1 hlt)
            have hne : k ≠ base + len / 2 := fun e => hmid (e ▸ hka)
            exact ⟨k, by omega, by omega, hka⟩

theorem icfindBody_result_zero_or_one (s : State) : (icfindBody s).result = 0 ∨ (icfindBody s).result = 1 := by
  unfold icfindBody
  split
  · exact .inr rfl
  · exact .inl rfl

/-- On an ascending list RESULT is membership of ARG (R206). -/
theorem icfindBody_result (nonempty : s.icaoLen ≠ 0) (hasc : ascending (s.icaoList s.icaoLen)) :
    (icfindBody s).result = if s.arg ∈ s.icaoList s.icaoLen then 1 else 0 := by
  have hiff := bisect_eq_true_iff (a := s.arg) hasc (Nat.pos_of_ne_zero nonempty) (le_refl _)
    (Nat.zero_add s.icaoLen).le
  simp only [icfindBody, hiff, mem_icaoList, Nat.zero_le, Nat.zero_add, true_and]

end Sys2Proof.Machine

namespace Sys2Proof

open Machine

/-- Settles O48: a write to the list memory is read back at its own index alone. -/
theorem icwrWritesOneEntry : Obligations.IcwrWritesOneEntry := by
  intro idx s hidx
  have hwritten : (icwrBody idx s).icao.find idx = some s.arg := by rw [find_icwrBody, if_pos rfl]
  have hother (k : Nat) (hk : k ≠ idx) : (icwrBody idx s).icao.find k = s.icao.find k := by
    rw [find_icwrBody, if_neg hk]
  refine ⟨_, exec_icwr hidx, rfl, ?_, hwritten, fun k hk => ⟨icaoAt_congr (hother k hk) rfl, hother k hk⟩⟩
  rw [State.icaoAt, hwritten, Option.getD_some]

/-- Settles O49: ICLEN's check passes, and its body writes the one field. -/
theorem iclenSetsTheLength : Obligations.IclenSetsTheLength := fun _ _ hlen => exec_iclen hlen

/-- Settles O50: the walk permutes the list, and its inversions bound the steps it takes to sort it. -/
theorem icsortSortsTheList : Obligations.IcsortSortsTheList := by
  intro s nonempty
  refine ⟨_, exec_icsort nonempty, icsortBody_eq s, icsortBody_perm s, ascending_icsortBody s, fun k hk => ?_,
    sortWalk_of_ascending _ (le_refl 1)⟩
  have hfind := find_icsortBody_of_beyond hk
  exact ⟨icaoAt_congr hfind (icsortBody_epoch s), hfind⟩

/-- Settles O51: ICFIND's body writes RESULT alone, by the search's answer. -/
theorem icfindWritesZeroOrOne : Obligations.IcfindWritesZeroOrOne := fun s nonempty =>
  ⟨_, exec_icfind nonempty, rfl, icfindBody_result_zero_or_one s⟩

/-- Settles O52: on an ascending list each halving keeps every occurrence of ARG in the window. -/
theorem icfindIsMembershipOnAscendingLists : Obligations.IcfindIsMembershipOnAscendingLists := by
  intro s nonempty hasc
  have hresult := icfindBody_result nonempty hasc
  exact ⟨_, exec_icfind nonempty, rfl, fun hmem => hresult.trans (if_pos hmem),
    fun habsent => hresult.trans (if_neg habsent)⟩

/-- Settles O53: the sort leaves an ascending list of the same addresses, on which the search decides membership. -/
theorem sortThenSearchIsConsistent : Obligations.SortThenSearchIsConsistent := by
  intro s nonempty
  have nonempty' : (icsortBody s).icaoLen ≠ 0 := by rwa [icsortBody_icaoLen]
  have hasc : ascending ((icsortBody s).icaoList (icsortBody s).icaoLen) := by
    rw [icsortBody_icaoLen]
    exact ascending_icsortBody s
  have hresult := icfindBody_result nonempty' hasc
  simp only [icsortBody_arg, icsortBody_icaoLen, (icsortBody_perm s).mem_iff] at hresult
  exact ⟨_, _, exec_icsort nonempty, exec_icfind nonempty', fun hmem => hresult.trans (if_pos hmem),
    fun habsent => hresult.trans (if_neg habsent)⟩

end Sys2Proof
end

section
/-! PROOFS. The exceptions (spec/60_exceptions.md R232 to R237): the step of an issued command, the block without an
operation to perform, precise faults, the fault state, the overrun, and the order of the commands' checks. -/

namespace Sys2Proof.Machine

variable {s t : State} {i : Instr} {f : FaultCode}

/-! ### Fault entry -/

/-- In an idle block fault entry writes FAULT and FAULT_INFO alone (R234). -/
theorem raiseFault_of_idle (idle : s.engine = none) (f : FaultCode) (w : Word) :
    raiseFault f w s = { s with fault := f, faultInfo := w } := by
  rw [raiseFault, ← idle]

/-- The consumer has no Answer to give to an idle block (R45). -/
theorem pendingDelivery_of_idle (idle : s.engine = none) : s.pendingDelivery = none := by
  simp [State.pendingDelivery, State.waiting, idle]

/-- A command that has passed its checks raises no fault: FAULT is written by fault entry and Reset alone (R30). -/
theorem commandBody_fault (i : Instr) (s : State) : (commandBody i s).fault = s.fault := by
  cases i with
  | scan c => exact scanRun_keeps State.fault _ s (fun _ => rfl) (fun _ => rfl)
  | proc c n => exact scanRun_keeps State.fault _ (convertBody c n s) (fun _ => rfl) (fun _ => rfl)
  | icsort => exact icsortBody_keeps State.fault s (fun _ => rfl)
  | lutinit | lutrd | ctxnew | ctxfree | conv | ptest | demod | icwr | iclen | icfind => rfl

/-! ### Host writes -/

/-- The step of WriteRaw, WriteArg or Issue is one host write, with the info its overrun would have (R232, R236). -/
theorem step_hostWrite {op : PortOp} {rest : List PortOp} {info : Word} (hin : s.inputs = op :: rest)
    (hs : s.engine = none ∨ s.waiting.isSome = true) (write : overrunInfo op = some info) :
    ∃ p, step s = hostWrite info p { s with inputs := rest, tick := s.tick + 1 } := by
  have hstep := step_operation hin (waits_of_idle_or_pending hs)
  cases op with
  | writeRaw | writeArg | issue =>
    cases write
    exact ⟨_, hstep⟩
  | read | reset | answer => cases write

/-! ### The fault state -/

/-- A host write in the fault state is ignored, whatever it would have written (R235). -/
theorem step_ignored {op : PortOp} {rest : List PortOp} {info : Word} (hin : s.inputs = op :: rest)
    (idle : s.engine = none) (faulted : s.fault ≠ .noFault) (write : overrunInfo op = some info) :
    step s = .next { s with inputs := rest, tick := s.tick + 1 } := by
  obtain ⟨p, hstep⟩ := step_hostWrite hin (.inl idle) write
  exact hstep.trans (hostWrite_of_faulted faulted)

/-- Everything a port operation can do in the fault state: a host write is ignored, a Read puts its word out, and Reset
resets (R235). -/
theorem Performs.of_faulted {op : PortOp} (h : Performs s op t) (idle : s.engine = none)
    (faulted : s.fault ≠ .noFault) :
    t = s ∨ (∃ a, op = .read a ∧ t = portRead a s) ∨ (op = .reset ∧ t = resetBlock s) := by
  cases h with
  | ignored => exact .inl rfl
  | readOut a => exact .inr (.inl ⟨a, rfl, rfl⟩)
  | reset => exact .inr (.inr ⟨rfl, rfl⟩)
  | answered status e running => exact absurd (idle.symm.trans running) nofun
  | overran | rawRange | rawWritten | argWritten | illegal | command => contradiction

/-- A step that takes an operation other than Reset keeps the fault state and what it reports (R235). -/
theorem step_keeps_fault_of_faulted {op : PortOp} {rest : List PortOp} (hin : s.inputs = op :: rest)
    (idle : s.engine = none) (faulted : s.fault ≠ .noFault) (hstep : step s = .next t) (hop : op ≠ .reset) :
    t.fault = s.fault ∧ t.faultInfo = s.faultInfo := by
  rw [step_operation hin (waits_of_idle_or_pending (.inl idle))] at hstep
  obtain ⟨n, hn⟩ := takeInput_eq op rest s
  rw [hn] at hstep
  obtain rfl | ⟨a, _, rfl⟩ | ⟨hreset, _⟩ := (performs_of_perform hstep).of_faulted idle faulted
  · exact ⟨rfl, rfl⟩
  · exact ⟨rfl, rfl⟩
  · exact absurd hreset hop

/-! ### The overrun -/

/-- A context store with slot c replaced holds at c what replaced it; where there is no slot c nothing was replaced. -/
theorem ctxs_eq_set_ctx_of_set {c : Nat} {x : Context} (h : t.ctxs = s.ctxs.set c x) :
    t.ctxs = s.ctxs.set c (t.ctx c) := by
  by_cases hc : c < s.numContexts
  · exact ctxs_eq_set_ctx hc h
  · have hlen : s.ctxs.length ≤ c := Nat.not_lt.1 hc
    rw [h, List.set_eq_of_length_le hlen, List.set_eq_of_length_le hlen]

/-- Whatever the abandoned command leaves in its slot, the slot stays created and keeps its handle (R236). -/
theorem abandon_keeps_slot (c : Nat) (s : State) :
    ((abandon c s).ctx c).valid = (s.ctx c).valid ∧ ((abandon c s).ctx c).handle = (s.ctx c).handle := by
  rw [ctx_abandon]
  split <;> exact ⟨rfl, rfl⟩

/-- The overrun writes the fault, ends the command, and frees what R236 lists; it keeps everything else. -/
theorem overrun_eq (info : Word) (e : Engine) (s : State) :
    overrun info e s = { s with
      fault := .overrun, faultInfo := info, engine := none,
      msg := (overrun info e s).msg, msgLenBits := (overrun info e s).msgLenBits,
      seqValid := (overrun info e s).seqValid, result := (overrun info e s).result,
      ctxs := s.ctxs.set e.ctx ((overrun info e s).ctx e.ctx) } := by
  have hset : (overrun info e s).ctxs = s.ctxs.set e.ctx ((overrun info e s).ctx e.ctx) :=
    ctxs_eq_set_ctx_of_set rfl
  rw [← hset]
  rfl

/-- A host write beside a delivery is an overrun, whatever it would have written (R236). -/
theorem step_overrun {e : Engine} {op : PortOp} {rest : List PortOp} {info : Word} (h : WaitingFor e op rest s)
    (unfaulted : s.fault = .noFault) (write : overrunInfo op = some info) :
    step s = .next (overrun info e { s with inputs := rest, tick := s.tick + 1 }) := by
  have hwaiting : s.waiting = some e := waiting_eq_some.2 ⟨h.running, h.waits⟩
  obtain ⟨p, hstep⟩ := step_hostWrite h.next (.inr (by rw [hwaiting]; rfl)) write
  exact hstep.trans (hostWrite_of_running unfaulted h.running)

/-! ### The order of the checks -/

/-- The first check of a command that fails decides its fault (R233). -/
theorem exec_of_check_fails (h : firstFault (commandChecks i s) = some f) :
    exec i s = .next (raiseFault f (encode i) s) := by
  rw [exec_eq_checked, checked_fail h]

/-- The order of the checks of CONV and PROC (R142, R161). -/
theorem firstFault_convertChecks (c n : Nat) (s : State) :
    firstFault (convertChecks c n s) =
      if s.numContexts ≤ c then some .ctxIndex
      else if s.lutValid = false then some .lutNotInit
      else if (s.ctx c).valid = false then some .ctxNotCreated
      else if s.maxRawBytes < n then some .alloc
      else if s.seqValid = true then some .seqPending
      else none := by
  simp [convertChecks]

/-- The order of the checks that SCAN, PTEST and DEMOD begin with (R160, R162, R184). -/
theorem firstFault_sequenceChecks_append (c : Nat) (s : State) (rest : List (Bool × FaultCode)) :
    firstFault (sequenceChecks c s ++ rest) =
      if s.numContexts ≤ c then some .ctxIndex
      else if (s.ctx c).valid = false then some .ctxNotCreated
      else if s.seqValid = false ∨ s.seqCtx ≠ c then some .noSequence
      else firstFault rest := by
  simp [sequenceChecks]

theorem commandChecks_of_conversion {c n : Nat} (s : State) (hi : i = .conv c n ∨ i = .proc c n) :
    commandChecks i s = convertChecks c n s := by
  obtain rfl | rfl := hi <;> rfl

/-- SCAN, PTEST and DEMOD share their first checks; PTEST and DEMOD have one more behind them. -/
theorem commandChecks_of_sequenceCommand {c off : Nat} (s : State)
    (hi : i = .scan c ∨ i = .ptest c off ∨ i = .demod c off) :
    ∃ rest, commandChecks i s = sequenceChecks c s ++ rest := by
  obtain rfl | rfl | rfl := hi
  · exact ⟨[], (List.append_nil _).symm⟩
  · exact ⟨_, rfl⟩
  · exact ⟨_, rfl⟩

end Sys2Proof.Machine

namespace Sys2Proof

open Machine

/-- Settles O9: a host write is ignored, a Read has no part in the fault, and Reset is the one way out. -/
theorem faultStateIsSticky : Obligations.FaultStateIsSticky := by
  intro s op rest hin idle faulted
  have ignored {info : Word} (write : overrunInfo op = some info) :
      step s = .next { s with inputs := rest, tick := s.tick + 1 } :=
    step_ignored hin idle faulted write
  refine ⟨fun k b hop => ignored (congrArg overrunInfo hop), fun v hop => ignored (congrArg overrunInfo hop),
    fun w hop => ignored (congrArg overrunInfo hop), fun a hop => step_read (hop ▸ hin) (.inl idle),
    pendingDelivery_of_idle idle, fun t => step_keeps_fault_of_faulted hin idle faulted, fun hop => ?_⟩
  subst hop
  exact ⟨_, step_operation hin (waits_of_idle_or_pending (.inl idle)), rfl⟩

/-- Settles O12: the step is the overrun, which keeps all but the fault's own writes and the list of R236. -/
theorem hostWriteWhileBusyIsOverrun : Obligations.HostWriteWhileBusyIsOverrun := by
  intro s e op rest info h unfaulted hop
  have write : overrunInfo op = some info := by
    obtain ⟨_, _, rfl, rfl⟩ | ⟨_, rfl, rfl⟩ | rfl := hop <;> rfl
  obtain ⟨hvalid, hhandle⟩ := abandon_keeps_slot e.ctx { s with inputs := rest, tick := s.tick + 1 }
  exact ⟨_, step_overrun h unfaulted write, overrun_eq info e _, hvalid, hhandle, rfl⟩

/-- Settles O19: what a command's body leaves is not faulted, so the fault is that of a failed check. -/
theorem commandFaultsArePrecise : Obligations.CommandFaultsArePrecise := by
  intro i s t unfaulted idle hx hfault
  obtain ⟨f, _, rfl⟩ | ⟨_, rfl⟩ := exec_cases hx
  · exact ⟨raiseFault_of_idle idle f (encode i), rfl⟩
  · exact absurd ((commandBody_fault i s).trans unfaulted) hfault

/-- Settles O7: the Issue reaches the decoder, and a decoded command runs. -/
theorem stepRunsTheDecodedCommand : Obligations.StepRunsTheDecodedCommand := by
  intro s w rest i h decodes
  rw [step_of_readyFor_issue h, issueWord, decodes]

/-- Settles O8: such a block has no scan to run on, and no operation to perform. -/
theorem blockWithoutInputKeepsItsState : Obligations.BlockWithoutInputKeepsItsState :=
  fun _ hin hs => step_idle hin (waits_of_idle_or_pending hs)

/-- Settles O20, by the one list of checks of both commands. -/
theorem checkOrderOfConversions : Obligations.CheckOrderOfConversions := by
  intro c n s i hi
  have hexec {f : FaultCode} (h : firstFault (convertChecks c n s) = some f) :
      exec i s = .next (raiseFault f (encode i) s) :=
    exec_of_check_fails (by rw [commandChecks_of_conversion s hi, h])
  rw [firstFault_convertChecks] at hexec
  refine ⟨fun hc => hexec (if_pos hc), fun hc hlut => hexec ?_, fun hc hlut hctx => hexec ?_,
    fun hc hlut hctx hn => hexec ?_, fun hc hlut hctx hn hseq => hexec ?_⟩
  · simp [hc, hlut]
  · simp [hc, hlut, hctx]
  · simp [hc, hlut, hctx, hn]
  · simp [Nat.not_le.2 hc, hlut, hctx, Nat.not_lt.2 hn, hseq]

/-- Settles O21: the shared checks in their order, and behind them the one of PTEST and of DEMOD. -/
theorem checkOrderOfSequenceCommands : Obligations.CheckOrderOfSequenceCommands := by
  intro c off s
  refine ⟨fun i hi => ?shared, fun ready hoff => ?ptest, fun ready hoff => ?demod⟩
  case shared =>
    obtain ⟨rest, hchecks⟩ := commandChecks_of_sequenceCommand s hi
    have hexec {f : FaultCode} (h : firstFault (sequenceChecks c s ++ rest) = some f) :
        exec i s = .next (raiseFault f (encode i) s) :=
      exec_of_check_fails (by rw [hchecks, h])
    rw [firstFault_sequenceChecks_append] at hexec
    refine ⟨fun hc => hexec (if_pos hc), fun hc hctx => hexec ?_, fun hc hctx hseq => hexec ?_⟩
    · simp [hc, hctx]
    · rw [if_neg (Nat.not_le.2 hc), if_neg (by simp [hctx]), if_pos hseq]
  case ptest => exact exec_of_check_fails (by simp [commandChecks, sequenceChecks_pass ready, hoff])
  case demod => exact exec_of_check_fails (by simp [commandChecks, sequenceChecks_pass ready, hoff])

/-- Settles O22, command by command: each clause names the first check that fails. -/
theorem checkOrderOfTheOtherCommands : Obligations.CheckOrderOfTheOtherCommands := by
  intro di dq c idx len s
  refine ⟨fun hlut => ?_, fun hlut hrange => ?_, fun hc => ?_, fun hc hctx => ?_, fun hc => ?_, fun hc hctx => ?_,
    fun hidx => ?_, fun hlen => ?_, fun hempty => ⟨?_, ?_⟩⟩ <;> apply exec_of_check_fails
  · simp [commandChecks, hlut]
  · simp [commandChecks, hlut, hrange]
  · simp [commandChecks, hc]
  · simp [commandChecks, hc, hctx]
  · simp [commandChecks, hc]
  · simp [commandChecks, hc, hctx]
  · simp [commandChecks, hidx]
  · simp [commandChecks, hlen]
  · simp [commandChecks, hempty]
  · simp [commandChecks, hempty]

end Sys2Proof
end

section
/-! PROOFS. Reset at any time (spec/70_reset_and_hazards.md R260), and how a run ends (R275). -/

namespace Sys2Proof.Machine

variable {s : State}

/-! ### Reset -/

theorem ctx_resetBlock (s : State) (c : Nat) : (resetBlock s).ctx c = Context.blank :=
  ctx_resetWith s.numContexts s.maxRawBytes s.icaoCap c

/-- MSG is all 0x00 after Reset (R48). -/
theorem msg_resetBlock (s : State) (k : Nat) : (resetBlock s).msg.toList.getD k 0 = 0 := by
  change (List.replicate 14 (0 : Byte)).getD k 0 = 0
  rw [List.getD_eq_getElem?_getD, List.getElem?_getD_replicate_default_eq]

/-- Every field of STATUS is 0 after Reset (R48). -/
theorem statusWord_resetBlock (s : State) : (resetBlock s).statusWord = 0 := rfl

/-- Reset as the next operation, in a block that is idle, faulted or not, or has a delivery pending (R260). -/
theorem step_reset {rest : List PortOp} (hin : s.inputs = .reset :: rest)
    (hs : s.engine = none ∨ s.waiting.isSome = true) :
    step s = .next (resetBlock (takeInput .reset rest s)) :=
  step_operation hin (waits_of_idle_or_pending hs)

/-! ### How a run ends -/

theorem ends_of_idle_unfaulted (idle : s.engine = none) (unfaulted : s.fault = .noFault) :
    s.endedNormally = true ∧ s.endedFaulted = false ∧ s.notFinished = false := by
  simp [State.endedNormally, State.endedFaulted, State.notFinished, busy_eq_false_of_idle idle,
    pendingDelivery_of_idle idle, unfaulted]

theorem ends_of_idle_faulted (idle : s.engine = none) (faulted : s.fault ≠ .noFault) :
    s.endedNormally = false ∧ s.endedFaulted = true ∧ s.notFinished = false := by
  simp [State.endedNormally, State.endedFaulted, State.notFinished, busy_eq_false_of_idle idle,
    pendingDelivery_of_idle idle, faulted]

theorem ends_of_running_unfaulted {e : Engine} (running : s.engine = some e) (unfaulted : s.fault = .noFault) :
    s.endedNormally = false ∧ s.endedFaulted = false ∧ s.notFinished = true := by
  simp [State.endedNormally, State.endedFaulted, State.notFinished, State.busy, running, unfaulted]

end Sys2Proof.Machine

namespace Sys2Proof

open Machine

/-- Settles O13: the step is `resetBlock`, whose registers, slots and parameters are those of power-on. -/
theorem resetLeavesTheResetState : Obligations.ResetLeavesTheResetState := by
  intro s rest hin hs
  obtain ⟨hcontexts, hraw, hicao⟩ := sameParameters_resetBlock (takeInput .reset rest s)
  exact ⟨_, step_reset hin hs, rfl, rfl, statusWord_resetBlock _, rfl, rfl, rfl, rfl, msg_resetBlock _,
    fun c => ctx_resetBlock _ c ▸ ⟨rfl, rfl, rfl, rfl, rfl⟩, rfl, rfl, rfl, rfl, rfl, pendingDelivery_of_idle rfl,
    hcontexts, hraw, hicao, rfl⟩

/-- Settles O60: a running block is unfaulted by the invariant, and an idle one has no delivery pending. -/
theorem runsEndInExactlyOneWay : Obligations.RunsEndInExactlyOneWay := by
  intro s inv
  cases hengine : s.engine with
  | some e => exact .inr (.inr (ends_of_running_unfaulted hengine (inv.fault_of_running hengine)))
  | none =>
    by_cases hfault : s.fault = .noFault
    · exact .inl (ends_of_idle_unfaulted hengine hfault)
    · exact .inr (.inl (ends_of_idle_faulted hengine hfault))

end Sys2Proof
end
